-- ==== Sys2Proof/Word.lean ====
section
/-! DEFINITION. The word types of the block: a command word, a channel byte, a colour word. -/

namespace Sys2Proof

/-- A command word `cw`, 64 bits (R70). -/
abbrev Word := BitVec 64

/-- A `u8`: one colour channel, a brightness, a raw coordinate or mode code (R6). -/
abbrev Byte := BitVec 8

/-- A logical colour word `{r, g, b}`, 24 bits (R6, R53a). -/
abbrev Color := BitVec 24

/-- A wire triple `{c1, c2, c3}`, 24 bits (R6, R53b). -/
abbrev Wire := BitVec 24

/-- A hue in units of 1/8 degree, 12 bits, legal below 2880 (R6). -/
abbrev Hue := BitVec 12

end Sys2Proof
end

