-- ==== Sys2Proof/Syntax.lean ====
section
/-! DEFINITION. The thirteen commands of the command set (R80), one constructor each, with the operand
fields of their formats (R71). A field has exactly the width the format gives it, so every term is encodable;
whether an operand lies in its LEGAL range is `Instr.wellFormed`, not syntax (R82, last sentence). -/

namespace Sys2Proof

/-- One command with its operands. -/
inductive Instr where
  /-- `SETPIX row, col, color` (R120), format P. -/
  | setpix (row col : Byte) (c : Color)
  /-- `FILL color` (R121), format C. -/
  | fill (c : Color)
  /-- `GETPIX row, col` (R122), format A. -/
  | getpix (row col : Byte)
  /-- `GETALL` (R123), format Z. -/
  | getall
  /-- `SETMODE mode` (R130), format B. -/
  | setmode (val : Byte)
  /-- `SETPRI color` (R131), format C. -/
  | setpri (c : Color)
  /-- `SETSEC color` (R132), format C. -/
  | setsec (c : Color)
  /-- `SETBRT v` (R133), format B. -/
  | setbrt (val : Byte)
  /-- `SCALE value, brightness` (R104), format S. -/
  | scale (val brt : Byte)
  /-- `HSV2RGB H=h, s, v` (R105), format H. -/
  | hsv2rgb (h : Hue) (s v : Byte)
  /-- `BLEND n, a, b` (R106), format L. -/
  | blend (n : BitVec 3) (a b : Color)
  /-- `WIREORD color` (R107), format C. -/
  | wireord (c : Color)
  /-- `RENDER` (R150), format Z. -/
  | render
  deriving DecidableEq, Repr

end Sys2Proof
end

