-- ==== Sys2Proof/WellFormed.lean ====
section
/-! DEFINITION. Well-formed commands: the operand ranges of R190 check 3. An ill-formed command is still a
command: its word decodes, it encodes, and it runs to the refusing status of its rule (R82). -/

namespace Sys2Proof

/-- Every operand lies in the legal range R71 gives its field: `ROW`, `COL` below 8, a mode code of at
most 4, a hue below 2880. All other fields have no illegal value (R73, R75, R76, R78). -/
def Instr.wellFormed : Instr → Bool
  | .setpix row col _ => decide (row.toNat < 8) && decide (col.toNat < 8)
  | .fill _ => true
  | .getpix row col => decide (row.toNat < 8) && decide (col.toNat < 8)
  | .getall => true
  | .setmode val => decide (val.toNat ≤ 4)
  | .setpri _ => true
  | .setsec _ => true
  | .setbrt _ => true
  | .scale _ _ => true
  | .hsv2rgb h _ _ => decide (h.toNat < 2880)
  | .blend _ _ _ => true
  | .wireord _ => true
  | .render => true

end Sys2Proof
end

