-- ==== Sys2Proof/Decode.lean ====
section
/-! DEFINITION. The decoder, total on every 64-bit word (R83), and after it the encoder, both written from
the formats of R71, the opcode map of R80 and the masks of R88. -/

namespace Sys2Proof

/-- The thirteen opcodes of R80, by mnemonic. -/
inductive Opcode where
  | setpix | fill | getpix | getall
  | setmode | setpri | setsec | setbrt
  | scale | hsv2rgb | blend | wireord
  | render
  deriving DecidableEq, Repr

/-- The eight formats of R71. -/
inductive Format where
  | z | c | p | a | b | s | h | l
  deriving DecidableEq, Repr

/-- Why a word is illegal (R82); each is answered with status `IllegalCommand` (R187). -/
inductive DecodeError where
  /-- `OP` is not one of the thirteen opcodes (R190 check 1). -/
  | unknownOpcode
  /-- A bit of a `ZERO` field of the format is 1 (R190 check 2). -/
  | zeroBitSet
  deriving DecidableEq, Repr

/-- The value of `OP`, bits 63:56 (R80). -/
def Opcode.code : Opcode → BitVec 8
  | .setpix => 0x01#8
  | .fill => 0x02#8
  | .getpix => 0x03#8
  | .getall => 0x04#8
  | .setmode => 0x10#8
  | .setpri => 0x11#8
  | .setsec => 0x12#8
  | .setbrt => 0x13#8
  | .scale => 0x20#8
  | .hsv2rgb => 0x21#8
  | .blend => 0x22#8
  | .wireord => 0x23#8
  | .render => 0x30#8

/-- The format of each opcode (R80). -/
def Opcode.format : Opcode → Format
  | .setpix => .p
  | .fill => .c
  | .getpix => .a
  | .getall => .z
  | .setmode => .b
  | .setpri => .c
  | .setsec => .c
  | .setbrt => .b
  | .scale => .s
  | .hsv2rgb => .h
  | .blend => .l
  | .wireord => .c
  | .render => .z

/-- All opcodes, in the order of R80. -/
def Opcode.all : List Opcode :=
  [.setpix, .fill, .getpix, .getall, .setmode, .setpri, .setsec, .setbrt,
   .scale, .hsv2rgb, .blend, .wireord, .render]

/-- The opcode of a code; a decoder matches all 8 bits (R80). -/
def Opcode.ofCode (code : BitVec 8) : Option Opcode :=
  Opcode.all.find? fun op => decide (op.code = code)

/-- A 1 at every bit of the format's `ZERO` fields (R71). -/
def Format.zeroMask : Format → Word
  | .z => 0x00FFFFFFFFFFFFFF#64
  | .c => 0x00FFFF000000FFFF#64
  | .p => 0x000000000000FFFF#64
  | .a => 0x000000FFFFFFFFFF#64
  | .b => 0x0000FFFFFFFFFFFF#64
  | .s => 0x000000FFFFFFFFFF#64
  | .h => 0x00F0000000FFFFFF#64
  | .l => 0x00F8000000000000#64

/-- The row's mask: every `OP` bit and every `ZERO` bit (R88). -/
def Opcode.mask (op : Opcode) : Word :=
  0xFF00000000000000#64 ||| op.format.zeroMask

/-- The row's match value, `OP << 56` (R88). -/
def Opcode.matchWord (op : Opcode) : Word :=
  op.code ++ 0#56

/-- The command of an opcode with the operand fields of R71 taken from the word. -/
def operandsOf (op : Opcode) (w : Word) : Instr :=
  let hiByte := w.extractLsb' 48 8   -- ROW, VAL: bits 55:48
  let midByte := w.extractLsb' 40 8  -- COL, BRT: bits 47:40
  let color := w.extractLsb' 16 24   -- R, G, B: bits 39:16
  match op with
  | .setpix => .setpix hiByte midByte color
  | .fill => .fill color
  | .getpix => .getpix hiByte midByte
  | .getall => .getall
  | .setmode => .setmode hiByte
  | .setpri => .setpri color
  | .setsec => .setsec color
  | .setbrt => .setbrt hiByte
  | .scale => .scale hiByte midByte
  | .hsv2rgb => .hsv2rgb (w.extractLsb' 40 12) (w.extractLsb' 32 8) (w.extractLsb' 24 8)
  | .blend => .blend (w.extractLsb' 48 3) (w.extractLsb' 24 24) (w.extractLsb' 0 24)
  | .wireord => .wireord color
  | .render => .render

/-- The reading of a command word (R70, R82, R83): first the opcode, then the `ZERO` fields (R190 checks
1 and 2), then the operands. -/
def decode (w : Word) : Except DecodeError Instr :=
  match Opcode.ofCode (w.extractLsb' 56 8) with
  | none => .error .unknownOpcode
  | some op =>
    if w &&& op.format.zeroMask = 0#64 then .ok (operandsOf op w) else .error .zeroBitSet

/-- The opcode an instruction is encoded with (R80). -/
def Instr.opcode : Instr → Opcode
  | .setpix _ _ _ => .setpix
  | .fill _ => .fill
  | .getpix _ _ => .getpix
  | .getall => .getall
  | .setmode _ => .setmode
  | .setpri _ => .setpri
  | .setsec _ => .setsec
  | .setbrt _ => .setbrt
  | .scale _ _ => .scale
  | .hsv2rgb _ _ _ => .hsv2rgb
  | .blend _ _ _ => .blend
  | .wireord _ => .wireord
  | .render => .render

/-- Bits 55:0 of the command word of an instruction, field by field as R71 lays them out, most significant
first. -/
def Instr.operandBits : Instr → BitVec 56
  | .setpix row col c => row ++ col ++ c ++ 0#16
  | .fill c => 0#16 ++ c ++ 0#16
  | .getpix row col => row ++ col ++ 0#40
  | .getall => 0#56
  | .setmode val => val ++ 0#48
  | .setpri c => 0#16 ++ c ++ 0#16
  | .setsec c => 0#16 ++ c ++ 0#16
  | .setbrt val => val ++ 0#48
  | .scale val brt => val ++ brt ++ 0#40
  | .hsv2rgb h s v => 0#4 ++ h ++ s ++ v ++ 0#24
  | .blend n a b => 0#5 ++ n ++ a ++ b
  | .wireord c => 0#16 ++ c ++ 0#16
  | .render => 0#56

/-- The command word of an instruction: `OP` in bits 63:56, the operands in bits 55:0 (R70). -/
def encode (i : Instr) : Word := i.opcode.code ++ i.operandBits

/-- The command word whose low `nbits` bits are those of `w`, every higher bit 0 (the opcode table numbers
bit 0 of the one 64-bit word as its least significant bit, as R6 does). -/
def commandWord (nbits w : Nat) : Word :=
  BitVec.ofNat 64 (w % 2 ^ nbits)

/-- What the decoder reads from an opcode-table word. -/
def decodeTableWord (nbits w : Nat) : Option Instr :=
  match decode (commandWord nbits w) with
  | .ok i => some i
  | .error _ => none

end Sys2Proof
end

