-- ==== Sys2Proof/Config.lean ====
section
/-! DEFINITION. What the spec leaves to the platform: the inputs the environment drives (R9, R41 to R43), the
configuration straps (R5, OPEN), and the free values, which have no body. -/

namespace Sys2Proof

/-- The sink's answer to a `set_pixel` or `refresh` request (R41). -/
inductive SinkAnswer where
  | ok | err
  deriving DecidableEq, Repr, Inhabited

/-- The levels on `cfg_brightness`, `cfg_primary`, `cfg_secondary`, sampled by `RESET` (R43, R210). -/
structure Straps where
  brightness : Byte
  primary : Color
  secondary : Color
  deriving DecidableEq, Repr, Inhabited

/-- The events the environment causes, one per atomic step (R9, R192), with what the environment chooses
in each. `takeBeat` is the host side of the response port (R40, R226, log 5); `grantWithMs` is a grant and a
millisecond pulse at the same instant (R191), with the order the environment would have given them. -/
inductive Event where
  /-- `RESET`, with the straps it samples (R210). -/
  | rst (straps : Straps)
  /-- `CMD(cw)`: a host presents a command word (R9, R40). -/
  | cmd (cw : Word)
  /-- A host takes the next pending beat of a `GETALL` response (R40, R211, R226). -/
  | takeBeat
  /-- `MS`: one pulse of `ms_tick` (R43, R141, R166). -/
  | ms
  /-- `SUBMIT(res)`: the sequencer's pixel with the sink's answer (R161). -/
  | submit (res : SinkAnswer)
  /-- `GRANT`: the arbiter's `lock_gnt` (R165, R169). -/
  | grant
  /-- `REFRESH(res)`: the sink's answer to the refresh request (R167). -/
  | refresh (res : SinkAnswer)
  /-- `lock_gnt` and `ms_tick` at the same physical instant (R191). -/
  | grantWithMs (grantFirst : Bool)
  deriving DecidableEq, Repr, Inhabited

/-- The straps behind `State.reset`: OPEN parameters of R5, for which the spec gives no value.
DESIGN CHOICE (log 1): all zero. Nothing but `State.reset` reads them; a `RESET` event carries its own. -/
def Config.straps : Straps := { brightness := 0#8, primary := 0#24, secondary := 0#24 }

/-- FREE VALUE: the `n`-th sample of the `rnd[23:0]` input (R43, R147; log 3). No law holds of it. -/
opaque Config.rnd : Nat → Color

/-- FREE VALUE: the `n`-th event the environment chooses when nothing is queued (R9, R59, U5 to U7; log 2). No
law holds of it. -/
opaque Config.envEvent : Nat → Event

end Sys2Proof
end

