-- ==== Sys2Proof/Machine/State.lean ====
section
/-! DEFINITION. The state of the block (R20), the outputs of its ports (R40, R41, R44), the reasons a step can
stop, and the state right after reset (R46). -/

namespace Sys2Proof.Machine

/-- The display modes, the legal codes of `MODE` and `MODE_SNAP` (R24, R35): codes 5 to 7 are never held. -/
inductive Mode where
  | static | rainbow | checkerboard | gradient | random
  deriving DecidableEq, Repr

/-- The sequencer's states (R31). -/
inductive Seq where
  | wait | submit | lockWait | refresh
  deriving DecidableEq, Repr

/-- The response statuses (R180). `invalidChannelValue` keeps its code and is never produced (R186). -/
inductive Status where
  | ok | outOfRange | unknownMode | invalidChannelValue | illegalCommand | domainError | busy
  deriving DecidableEq, Repr

/-- One beat on the response port: `resp_status`, `resp_data`, `resp_last` (R40). -/
structure Beat where
  status : Status
  data : BitVec 32
  last : Bool
  deriving DecidableEq, Repr

/-- The diagnostic events (R44). -/
inductive Diag where
  | sinkPixelError | sinkRefreshError | hardwareRefreshTimeout
  deriving DecidableEq, Repr

/-- One event leaving the block through a port. `lock_req` is a level, not an event: see `lockReq`. -/
inductive Output where
  /-- A response beat (R40). -/
  | response (b : Beat)
  /-- `set_pixel(index, c1, c2, c3)` on the sink port (R41). -/
  | setPixel (index : BitVec 6) (c1 c2 c3 : Byte)
  /-- `refresh()` on the sink port (R41). -/
  | refresh
  /-- `diag(code, info)` on the diagnostic port (R44). -/
  | diag (d : Diag) (info : BitVec 6)
  deriving DecidableEq, Repr

/-- The FrameBuffer, pixel index with colour, indices rising, no entry equal to 0, the colour an unlisted
pixel reads as (R39 "Created zeroed at startup", R50, R53; log 7). -/
abbrev Memory := List (Nat × Color)

/-- The frame register file `FRAME[0..63]` (R33). -/
abbrev Frame := Vector Color 64

/-- Why the machine stops with a fault. -/
inductive Fault where
  /-- Raised by `react` on a sink answer (`SUBMIT`, `REFRESH`) for which no request is outstanding. R192: it
  "cannot occur: the sink answers only what was asked". SAFE: the model stops where the spec has no step. -/
  | sinkAnswerUnasked
  deriving DecidableEq, Repr

/-- Why the machine refuses. -/
inductive Refusal where
  /-- Raised only by an arm of `exec` whose instruction has no meaning yet; no arm does. SAFE. -/
  | notModelled (mnemonic : String)
  deriving DecidableEq, Repr

/-- The state. The first fifteen fields are R20's, each under its own name; the last five are the model's. -/
structure State where
  /-- `FB[0..63]` (R39). -/
  fb : Memory
  /-- `MODE` (R24). -/
  mode : Mode
  /-- `PRIMARY` (R25). -/
  primary : Color
  /-- `SECONDARY` (R26). -/
  secondary : Color
  /-- `BRIGHTNESS` (R27). -/
  brightness : Byte
  /-- `HUE_OFFSET` (R28). -/
  hueOffset : Hue
  /-- `GRAD_OFFSET` (R29). -/
  gradOffset : BitVec 3
  /-- `SEQ` (R31). -/
  seq : Seq
  /-- `WAIT_MS` (R32). -/
  waitMs : BitVec 9
  /-- `FRAME[0..63]` (R33). -/
  frame : Frame
  /-- `BRT_SNAP` (R34). -/
  brtSnap : Byte
  /-- `MODE_SNAP` (R35). -/
  modeSnap : Mode
  /-- `PIXIDX` (R36). -/
  pixIdx : BitVec 6
  /-- `LOCK_MS` (R37). -/
  lockMs : BitVec 7
  /-- `PIXOUT` (R38). -/
  pixOut : BitVec 30
  /-- MODEL: the beats of a `GETALL` response not yet taken (implied by R40, R211, R226; log 5). -/
  respQ : List Beat
  /-- MODEL: the events the environment has queued, in the order they will be taken (R9; log 2). -/
  inputs : List Event
  /-- MODEL: how many events have been chosen by the free environment (log 2). -/
  envIdx : Nat
  /-- MODEL: how many samples of `rnd` have been drawn (log 3). -/
  drawIdx : Nat
  /-- MODEL: every event that has left through a port, oldest first (log 6). -/
  trace : List Output
  deriving DecidableEq, Repr

/-- The machine right after reset with the given straps: the table of R46. Nothing is queued, pending, drawn
or recorded yet. -/
def State.resetWith (straps : Straps) : State where
  fb := []
  mode := .static
  primary := straps.primary
  secondary := straps.secondary
  brightness := straps.brightness
  hueOffset := 0#12
  gradOffset := 0#3
  seq := .wait
  waitMs := 0#9
  frame := ⟨(List.replicate 64 (0#24)).toArray, rfl⟩
  brtSnap := 0#8
  modeSnap := .static
  pixIdx := 0#6
  lockMs := 0#7
  pixOut := 0#30
  respQ := []
  inputs := []
  envIdx := 0
  drawIdx := 0
  trace := []

/-- The machine right after reset, with the straps of `Config.straps` (log 1). -/
def State.reset : State := State.resetWith Config.straps

end Sys2Proof.Machine
end

