-- ==== Sys2Proof/Machine/Operands.lean ====
section
/-! DEFINITION. The operand forms: the channels of a colour word, the coordinate pair (the one addressing
mode, R124), the mode code and the hue, each with its legal range (R71, R79, R190 check 3). -/

namespace Sys2Proof.Machine

/-- `r = w[23:16]` (R6). -/
def red (c : Color) : Byte := c.extractLsb' 16 8

/-- `g = w[15:8]` (R6). -/
def green (c : Color) : Byte := c.extractLsb' 8 8

/-- `b = w[7:0]` (R6). -/
def blue (c : Color) : Byte := c.extractLsb' 0 8

/-- The word `{r, g, b}` (R6). -/
def rgb (r g b : Byte) : Color := r ++ g ++ b

/-- The pixel index of a legal coordinate pair, `ROW*8 + COL` (R51); none when `ROW >= 8 or COL >= 8`
(R55). -/
def pixelIndex (row col : Byte) : Option Nat :=
  if 8 ≤ row.toNat ∨ 8 ≤ col.toNat then none else some (row.toNat * 8 + col.toNat)

/-- The mode of a `SETMODE` code (R24, R81); none for the codes 5 to 255 (R130). -/
def modeOfCode (val : Byte) : Option Mode :=
  if val = 0#8 then some .static
  else if val = 1#8 then some .rainbow
  else if val = 2#8 then some .checkerboard
  else if val = 3#8 then some .gradient
  else if val = 4#8 then some .random
  else none

/-- The 3-bit code of a mode (R24). -/
def Mode.code : Mode → BitVec 3
  | .static => 0#3
  | .rainbow => 1#3
  | .checkerboard => 2#3
  | .gradient => 3#3
  | .random => 4#3

/-- A hue operand is legal below 2880 (R71, R105). -/
def hueLegal (h : Hue) : Bool := decide (h.toNat < 2880)

end Sys2Proof.Machine
end

