-- ==== Sys2Proof/Machine/Flags.lean ====
section
/-! DEFINITION. The block has no flags (R23): what stands in their place is the outcome of a command, its
response status and data (R85, R180), and the diagnostic codes of a tick (R44). Nothing here is stored. -/

namespace Sys2Proof.Machine

/-- `resp_status[3:0]` (R180). -/
def Status.code : Status → BitVec 4
  | .ok => 0#4
  | .outOfRange => 1#4
  | .unknownMode => 2#4
  | .invalidChannelValue => 3#4
  | .illegalCommand => 4#4
  | .domainError => 5#4
  | .busy => 6#4

/-- `code[3:0]` of a diagnostic event (R44). -/
def Diag.code : Diag → BitVec 4
  | .sinkPixelError => 1#4
  | .sinkRefreshError => 2#4
  | .hardwareRefreshTimeout => 3#4

/-- `zext_32` of a byte result: bits 31:8 zero (R85). -/
def byteData (b : Byte) : BitVec 32 := 0#24 ++ b

/-- `zext_32` of a 24-bit result: bits 31:24 zero (R85). -/
def colorData (c : BitVec 24) : BitVec 32 := 0#8 ++ c

/-- `resp_data` of `GETALL`'s beat `k`: `{0[1:0], row[2:0], col[2:0], r, g, b}` (R85, R123). -/
def pixelData (k : Nat) (c : Color) : BitVec 32 :=
  0#2 ++ BitVec.ofNat 3 (k / 8) ++ BitVec.ofNat 3 (k % 8) ++ c

end Sys2Proof.Machine
end

