-- ==== Sys2Proof/Machine/Ops.lean ====
section
/-! DEFINITION. The named operations the meanings share: reading and writing the FrameBuffer (R52), the frame
register file, output events, answering and refusing a command (R8), delivering a pending beat (R40), and the
`RESET` step (R210). -/

namespace Sys2Proof.Machine

/-- The outcome of a meaning. -/
abbrev Result := Host.Outcome State Fault Refusal

/-- What a pixel that nothing has written reads as: "Created zeroed at startup" (R39). -/
def Memory.unlisted : Color := 0#24

/-- `MemRead(i, 1)` (R52). -/
def Memory.read (m : Memory) (i : Nat) : Color :=
  match m with
  | [] => Memory.unlisted
  | (j, c) :: rest => if i = j then c else Memory.read rest i

/-- Removes the entry of pixel `i`. -/
def Memory.erase (m : Memory) (i : Nat) : Memory :=
  m.filter fun e => decide (e.1 ≠ i)

/-- Puts an entry in front of the first one with a larger index. -/
def Memory.insert (m : Memory) (i : Nat) (c : Color) : Memory :=
  match m with
  | [] => [(i, c)]
  | (j, d) :: rest => if i < j then (i, c) :: (j, d) :: rest else (j, d) :: Memory.insert rest i c

/-- `MemWrite(i, 1, c)` (R52), keeping the canonical form: a pixel written to what an unlisted one reads as
is not listed. -/
def Memory.write (m : Memory) (i : Nat) (c : Color) : Memory :=
  if c = Memory.unlisted then Memory.erase m i else Memory.insert (Memory.erase m i) i c

/-- `for i in 0..63: MemWrite(i, 1, c)` (R121). -/
def Memory.fill (m : Memory) (c : Color) : Memory :=
  (List.range 64).foldl (fun acc i => Memory.write acc i c) m

/-- The canonical form, as a check on each entry and its successors: indices rise and lie in the grid
(R45, R55), and no entry holds what an unlisted pixel reads as. -/
def Memory.wf : Memory → Bool
  | [] => true
  | (i, c) :: rest =>
    decide (i < 64) && decide (c ≠ Memory.unlisted) && rest.all (fun e => decide (i < e.1)) && Memory.wf rest

/-- The frame whose entry `i` is `f i` (R33: all 64 entries in one step). -/
def Frame.ofFn (f : Nat → Color) : Frame :=
  ⟨((List.range 64).map f).toArray, by simp⟩

/-- `FRAME[i]` for a 6-bit index. -/
def Frame.entry (f : Frame) (i : BitVec 6) : Color := f[i.toFin]

/-- The outputs of one step leave through the ports, in order (R40, R41, R44). -/
def State.emit (s : State) (os : List Output) : State := { s with trace := s.trace ++ os }

/-- `respond(S, d)`: the command ends with one response beat, after its writes (R8, R40). -/
def respond (st : Status) (d : BitVec 32) (s : State) : Result :=
  .next (s.emit [.response { status := st, data := d, last := true }])

/-- `raise S`: the one exception operation. The command ends with status `S`, data 0 and no write to any state
(R8, R180); nothing is saved, no mode changes, control goes nowhere (R193), so there is no return (R194). -/
def raise (st : Status) (s : State) : Result := respond st 0#32 s

/-- The host takes the next pending beat of a response (R40, R226); with none pending nothing happens. -/
def deliverBeat (s : State) : State :=
  match s.respQ with
  | [] => s
  | b :: rest => { s with respQ := rest }.emit [.response b]

/-- `lock_req`: 1 exactly when `SEQ` is `LockWait` or `Refresh` (R42). -/
def lockReq (s : State) : Bool :=
  match s.seq with
  | .wait => false
  | .submit => false
  | .lockWait => true
  | .refresh => true

/-- The `RESET` step (R210, R211): every piece of state of R20 takes its value of R46, sampling the straps;
beats not taken are not delivered. What the environment has queued, chosen, drawn and seen is not the block's
state and stays. -/
def resetStep (straps : Straps) (s : State) : State :=
  { State.resetWith straps with
    inputs := s.inputs, envIdx := s.envIdx, drawIdx := s.drawIdx, trace := s.trace }

end Sys2Proof.Machine
end

