-- ==== Sys2Proof/Machine/ColorMath.lean ====
section
/-! DEFINITION. The four pure functions of the colour units (R100 to R103), over exact naturals (R108, R109). -/

namespace Sys2Proof.Machine

/-- `scale(value, brightness) = (value * brightness) div 255` (R100). -/
def scale (value brightness : Byte) : Byte :=
  BitVec.ofNat 8 (value.toNat * brightness.toNat / 255)

/-- `scale_c`: each channel scaled on its own (R100, R110). -/
def scaleColor (c : Color) (brightness : Byte) : Color :=
  rgb (scale (red c) brightness) (scale (green c) brightness) (scale (blue c) brightness)

/-- `j` of R101: `t` folded at 480, `j/480 = 1 - |((h/60) mod 2) - 1|`. -/
def hsvFold (h : Nat) : Nat :=
  let t := h % 960
  if t ≤ 480 then t else 960 - t

/-- `mid` of R101, `round((X + m)*255)` with ties up. -/
def hsvMid (j s v : Nat) : Nat :=
  (2 * (122400 * v - v * s * (480 - j)) + 122400) / 244800

/-- `lo` of R101, `round((0 + m)*255)` with ties up. -/
def hsvLo (s v : Nat) : Nat :=
  (2 * v * (255 - s) + 255) / 510

/-- The three values placed by sector (R101). Sectors above 5 belong to no legal hue (R71) and never arise. -/
def hsvPlace (sector : Nat) (hi mid lo : Byte) : Color :=
  if sector = 0 then rgb hi mid lo
  else if sector = 1 then rgb mid hi lo
  else if sector = 2 then rgb lo hi mid
  else if sector = 3 then rgb lo mid hi
  else if sector = 4 then rgb mid lo hi
  else rgb hi lo mid

/-- `hsv_to_rgb_q(H, S, V)` (R101), for `H < 2880`. -/
def hsvToRgb (h : Hue) (s v : Byte) : Color :=
  hsvPlace (h.toNat / 480) v
    (BitVec.ofNat 8 (hsvMid (hsvFold h.toNat) s.toNat v.toNat))
    (BitVec.ofNat 8 (hsvLo s.toNat v.toNat))

/-- `blend_ch(x, y, N) = (x*(7 - N) + y*N) div 7` (R102). -/
def blendChannel (x y : Byte) (n : BitVec 3) : Byte :=
  BitVec.ofNat 8 ((x.toNat * (7 - n.toNat) + y.toNat * n.toNat) / 7)

/-- `blend_q(a, b, N)`, channel by channel (R102, R110). -/
def blend (a b : Color) (n : BitVec 3) : Color :=
  rgb (blendChannel (red a) (red b) n) (blendChannel (green a) (green b) n)
    (blendChannel (blue a) (blue b) n)

/-- `wire_order((r, g, b)) = (c1, c2, c3) = (g, r, b)`, as the word `{c1, c2, c3}` (R53b, R103). -/
def wireOrder (c : Color) : Wire := green c ++ red c ++ blue c

end Sys2Proof.Machine
end

