-- ==== Sys2Proof/Machine/ColorUnits.lean ====
section
/-! DEFINITION. The four commands that apply a colour unit to the operands of the command word (R104 to R107).
They read no state and write none; only the response leaves the block. -/

namespace Sys2Proof.Machine

/-- `SCALE value, brightness` (R104). -/
def execScale (val brt : Byte) (s : State) : Result :=
  respond .ok (byteData (scale val brt)) s

/-- `HSV2RGB H=h, s, v` (R105): a hue of 2880 or more is refused, never reduced (R184). -/
def execHsv2rgb (h : Hue) (sat v : Byte) (s : State) : Result :=
  if hueLegal h then respond .ok (colorData (hsvToRgb h sat v)) s else raise .domainError s

/-- `BLEND n, a, b` (R106). -/
def execBlend (n : BitVec 3) (a b : Color) (s : State) : Result :=
  respond .ok (colorData (blend a b n)) s

/-- `WIREORD color` (R107). -/
def execWireord (c : Color) (s : State) : Result :=
  respond .ok (colorData (wireOrder c)) s

end Sys2Proof.Machine
end

