-- ==== Sys2Proof/Machine/DisplayState.lean ====
section
/-! DEFINITION. The four DisplayState commands (R130 to R133). Each writes one register; none starts a tick
(R134). -/

namespace Sys2Proof.Machine

/-- `SETMODE mode` (R130). -/
def execSetmode (val : Byte) (s : State) : Result :=
  match modeOfCode val with
  | none => raise .unknownMode s
  | some m => respond .ok 0#32 { s with mode := m }

/-- `SETPRI color` (R131). -/
def execSetpri (c : Color) (s : State) : Result :=
  respond .ok 0#32 { s with primary := c }

/-- `SETSEC color` (R132). -/
def execSetsec (c : Color) (s : State) : Result :=
  respond .ok 0#32 { s with secondary := c }

/-- `SETBRT v` (R133). -/
def execSetbrt (val : Byte) (s : State) : Result :=
  respond .ok 0#32 { s with brightness := val }

end Sys2Proof.Machine
end

