-- ==== Sys2Proof/Machine/FrameBuffer.lean ====
section
/-! DEFINITION. The four FrameBuffer commands (R120 to R123). -/

namespace Sys2Proof.Machine

/-- `SETPIX row, col, color` (R120). -/
def execSetpix (row col : Byte) (c : Color) (s : State) : Result :=
  match pixelIndex row col with
  | none => raise .outOfRange s
  | some i => respond .ok 0#32 { s with fb := Memory.write s.fb i c }

/-- `FILL color` (R121): all 64 writes in this one step. -/
def execFill (c : Color) (s : State) : Result :=
  respond .ok 0#32 { s with fb := Memory.fill s.fb c }

/-- `GETPIX row, col` (R122). -/
def execGetpix (row col : Byte) (s : State) : Result :=
  match pixelIndex row col with
  | none => raise .outOfRange s
  | some i => respond .ok (colorData (Memory.read s.fb i)) s

/-- The 64 beats of a `GETALL` response, all read from the same memory (R123). -/
def getallBeats (m : Memory) : List Beat :=
  (List.range 64).map fun k =>
    { status := .ok, data := pixelData k (Memory.read m k), last := decide (k = 63) }

/-- `GETALL` (R123): the snapshot is taken in this one step; its beats wait on the response port until the
host takes them (R40, R211, R226). -/
def execGetall (s : State) : Result :=
  .next { s with respQ := s.respQ ++ getallBeats s.fb }

end Sys2Proof.Machine
end

