-- ==== Sys2Proof/Machine/Sequencer.lean ====
section
/-! DEFINITION. The frame sequencer: the five frames (R143 to R147), `TickStart` (R142), the interval wait
(R141), the cadences (R149) and the `RENDER` command (R150). -/

namespace Sys2Proof.Machine

/-- `frame_static()[i] = FB[i]` (R143). -/
def frameStatic (m : Memory) : Frame := Frame.ofFn (Memory.read m)

/-- The hue of pixel `i` of a Rainbow frame, in 1/8 degrees: `(off + 45*i) mod 2880` (R144). -/
def rainbowHue (off : Hue) (i : Nat) : Hue := BitVec.ofNat 12 ((off.toNat + 45 * i) % 2880)

/-- `frame_rainbow(off)` (R144). -/
def frameRainbow (off : Hue) : Frame :=
  Frame.ofFn fun i => hsvToRgb (rainbowHue off i) 255#8 255#8

/-- `HUE_OFFSET <- (HUE_OFFSET + 16) mod 2880` (R144). -/
def advanceHue (off : Hue) : Hue := BitVec.ofNat 12 ((off.toNat + 16) % 2880)

/-- `frame_checker(p, s)` (R145); pixel `i` is at row `i div 8`, column `i mod 8` (R51). -/
def frameChecker (p s : Color) : Frame :=
  Frame.ofFn fun i => if (i / 8 + i % 8) % 2 = 0 then p else s

/-- `frame_gradient(p, s, off)` (R146): `N = (col + off) mod 8`. -/
def frameGradient (p s : Color) (off : BitVec 3) : Frame :=
  Frame.ofFn fun i => blend p s (BitVec.ofNat 3 ((i % 8 + off.toNat) % 8))

/-- `GRAD_OFFSET <- (GRAD_OFFSET + 1) mod 8` (R146). -/
def advanceGrad (off : BitVec 3) : BitVec 3 := BitVec.ofNat 3 ((off.toNat + 1) % 8)

/-- The frame `TickStart` computes for a mode (R142). -/
def tickFrame (rnd : Frame) (s : State) : Frame :=
  match s.mode with
  | .static => frameStatic s.fb
  | .rainbow => frameRainbow s.hueOffset
  | .checkerboard => frameChecker s.primary s.secondary
  | .gradient => frameGradient s.primary s.secondary s.gradOffset
  | .random => rnd

/-- `TickStart(rnd)` (R142): every right-hand side reads the state at the start of the step. -/
def tickStart (rnd : Frame) (s : State) : State :=
  { s with
    modeSnap := s.mode
    brtSnap := s.brightness
    frame := tickFrame rnd s
    hueOffset := if s.mode = .rainbow then advanceHue s.hueOffset else s.hueOffset
    gradOffset := if s.mode = .gradient then advanceGrad s.gradOffset else s.gradOffset
    pixIdx := 0#6
    waitMs := 0#9
    seq := .submit }

/-- `draw rnd[0..63]`: the 64 samples from the `n`-th on (R147). FREE VALUES (log 3). -/
def drawFrame (n : Nat) : Frame := Frame.ofFn fun i => Config.rnd (n + i)

/-- `draw rnd[0..63]; TickStart(rnd)`, in every mode (R141, R147, R150). -/
def startTick (s : State) : State :=
  { tickStart (drawFrame s.drawIdx) s with drawIdx := s.drawIdx + 64 }

/-- `CADENCE_MS` (R5, R149). -/
def cadenceMs : Mode → BitVec 9
  | .static => 100#9
  | .rainbow => 50#9
  | .checkerboard => 500#9
  | .gradient => 100#9
  | .random => 200#9

/-- The `MS` step while `SEQ = Wait` (R141). -/
def msInWait (s : State) : State :=
  if s.waitMs.toNat ≤ 1 then startTick s else { s with waitMs := s.waitMs - 1#9 }

/-- `RENDER` (R150): `Busy` while a tick is in progress, else a tick starts now. -/
def execRender (s : State) : Result :=
  if s.seq = .wait then respond .ok 0#32 (startTick s) else raise .busy s

end Sys2Proof.Machine
end

