-- ==== Sys2Proof/Machine/Dispatch.lean ====
section
/-! DEFINITION. The one match from an instruction to its meaning (R80). -/

namespace Sys2Proof.Machine

def exec (i : Instr) (s : State) : Host.Outcome State Fault Refusal :=
  match i with
  -- FrameBuffer commands, opcodes 0x01 to 0x04
  | .setpix row col c => Sys2Proof.Machine.execSetpix row col c s
  | .fill c => Sys2Proof.Machine.execFill c s
  | .getpix row col => Sys2Proof.Machine.execGetpix row col s
  | .getall => Sys2Proof.Machine.execGetall s
  -- DisplayState commands, opcodes 0x10 to 0x13
  | .setmode val => Sys2Proof.Machine.execSetmode val s
  | .setpri c => Sys2Proof.Machine.execSetpri c s
  | .setsec c => Sys2Proof.Machine.execSetsec c s
  | .setbrt val => Sys2Proof.Machine.execSetbrt val s
  -- colour units, opcodes 0x20 to 0x23
  | .scale val brt => Sys2Proof.Machine.execScale val brt s
  | .hsv2rgb h sat v => Sys2Proof.Machine.execHsv2rgb h sat v s
  | .blend n a b => Sys2Proof.Machine.execBlend n a b s
  | .wireord c => Sys2Proof.Machine.execWireord c s
  -- sequencer command, opcode 0x30
  | .render => Sys2Proof.Machine.execRender s

end Sys2Proof.Machine
end

