-- ==== Sys2Proof/Machine/Renderer.lean ====
section
/-! DEFINITION. The renderer: pixel submission (R161), the hardware-refresh lock (R164 to R166, R169), the refresh
(R167) and the end of a tick (R168). -/

namespace Sys2Proof.Machine

/-- The wire triple of the pixel at `PIXIDX`, scaled and then reordered (R161, R162). -/
def currentPixel (s : State) : Wire := wireOrder (scaleColor (s.frame.entry s.pixIdx) s.brtSnap)

/-- `out pix(i, c1, c2, c3)` for a wire triple (R41, R161): `c1 = w[23:16]`, `c2 = w[15:8]`, `c3 = w[7:0]`. -/
def pixelOutput (i : BitVec 6) (w : Wire) : Output :=
  .setPixel i (w.extractLsb' 16 8) (w.extractLsb' 8 8) (w.extractLsb' 0 8)

/-- The diagnostic of a sink answer: one event for an error, none for `ok` (R161, R167). -/
def answerDiag (res : SinkAnswer) (d : Diag) (info : BitVec 6) : List Output :=
  match res with
  | .ok => []
  | .err => [.diag d info]

/-- The `SUBMIT(res)` step (R161): the pixel is output before the diagnostic (R191). -/
def submitStep (res : SinkAnswer) (s : State) : State :=
  let w := currentPixel s
  let out := { s with pixOut := s.pixIdx ++ w }.emit
    (pixelOutput s.pixIdx w :: answerDiag res .sinkPixelError s.pixIdx)
  if s.pixIdx.toNat < 63 then { out with pixIdx := s.pixIdx + 1#6 }
  else { out with lockMs := 0#7, seq := .lockWait }

/-- `end_tick()` (R168). -/
def endTick (s : State) : State :=
  { s with waitMs := cadenceMs s.modeSnap, lockMs := 0#7, seq := .wait }

/-- The `GRANT` step (R165); a grant that is not wanted is ignored (R169). -/
def grantStep (s : State) : State :=
  match s.seq with
  | .lockWait => { s with seq := .refresh }.emit [.refresh]
  | .wait => s
  | .submit => s
  | .refresh => s

/-- The `MS` step while `SEQ = LockWait` (R166). -/
def msInLockWait (s : State) : State :=
  if s.lockMs.toNat < 99 then { s with lockMs := s.lockMs + 1#7 }
  else endTick (s.emit [.diag .hardwareRefreshTimeout 0#6])

/-- The `REFRESH(res)` step (R167). -/
def refreshStep (res : SinkAnswer) (s : State) : State :=
  endTick (s.emit (answerDiag res .sinkRefreshError 0#6))

/-- The `MS` step (R141, R152, R166, R192). -/
def msStep (s : State) : State :=
  match s.seq with
  | .wait => msInWait s
  | .submit => s
  | .lockWait => msInLockWait s
  | .refresh => s

/-- A grant and a millisecond pulse at the same instant (R191): the grant counts first at the 100th pulse of a
lock wait; otherwise the block takes them in the order the environment gave. -/
def grantWithMsStep (grantFirst : Bool) (s : State) : State :=
  if grantFirst || (decide (s.seq = .lockWait) && decide (99 ≤ s.lockMs.toNat))
  then msStep (grantStep s) else grantStep (msStep s)

end Sys2Proof.Machine
end

