-- ==== Sys2Proof/Machine/Events.lean ====
section
/-! DEFINITION. What each event does (R9, R192): a command word is decoded and executed, or answered
`IllegalCommand` (R187); the other events are the steps of the sequencer, the renderer and the ports. -/

namespace Sys2Proof.Machine

/-- A command word that the port accepts (R190 checks 1 and 2, then the command's own). -/
def acceptWord (cw : Word) (s : State) : Result :=
  match decode cw with
  | .ok i => exec i s
  | .error _ => raise .illegalCommand s

/-- `CMD(cw)`: while beats of the last response are pending the word waits and the next beat is taken (R40,
R123, R226; log 5); otherwise it is accepted. The word never gets lost: "the command port never refuses a
word" (R9). -/
def commandStep (cw : Word) (s : State) : Result :=
  match s.respQ with
  | [] => acceptWord cw s
  | _ :: _ => .next { deliverBeat s with inputs := .cmd cw :: s.inputs }

/-- `SUBMIT(res)`, enabled when `SEQ = Submit` (R9, R161). -/
def submitEvent (res : SinkAnswer) (s : State) : Result :=
  if s.seq = .submit then .next (submitStep res s) else .fault .sinkAnswerUnasked

/-- `REFRESH(res)`, enabled when `SEQ = Refresh` (R9, R167). -/
def refreshEvent (res : SinkAnswer) (s : State) : Result :=
  if s.seq = .refresh then .next (refreshStep res s) else .fault .sinkAnswerUnasked

/-- What an event does, the event already taken off the queue (R9, R192). -/
def react (e : Event) (s : State) : Result :=
  match e with
  | .rst straps => .next (resetStep straps s)
  | .cmd cw => commandStep cw s
  | .takeBeat => .next (deliverBeat s)
  | .ms => .next (msStep s)
  | .submit res => submitEvent res s
  | .grant => .next (grantStep s)
  | .refresh res => refreshEvent res s
  | .grantWithMs grantFirst => .next (grantWithMsStep grantFirst s)

/-- The next event and the state without it, in an environment that makes the choices `choose` when nothing is
queued (R9 "The order of steps caused by different agents is not fixed"; log 2). -/
def takeFrom (choose : Nat → Event) (s : State) : Event × State :=
  match s.inputs with
  | e :: rest => (e, { s with inputs := rest })
  | [] => (choose s.envIdx, { s with envIdx := s.envIdx + 1 })

/-- The next event and the state without it, the environment's choices being free values (log 2). -/
def takeEvent (s : State) : Event × State := takeFrom Config.envEvent s

/-- The state in which a host presents `cw` next and the response port is free to accept it. -/
def presentWord (cw : Word) (s : State) : State :=
  { s with inputs := .cmd cw :: s.inputs, respQ := [] }

end Sys2Proof.Machine
end

