-- ==== Sys2Proof/Machine/Step.lean ====
section
/-! DEFINITION. One atomic step (R9): the next event is taken and the block reacts to it. -/

namespace Sys2Proof.Machine

/-- One atomic step (R9) in an environment that makes the choices `choose` (log 2). -/
def stepFrom (choose : Nat → Event) (s : State) : Host.Outcome State Fault Refusal :=
  react (takeFrom choose s).1 (takeFrom choose s).2

/-- One atomic step (R9), the environment's choices being free values (log 2). -/
def step (s : State) : Host.Outcome State Fault Refusal := stepFrom Config.envEvent s

/-- `s` with the command word of an opcode-table row presented at the command port, so that the very next step
accepts exactly it (log 8). -/
def State.withFetchWord (s : State) (nbits w : Nat) : State :=
  presentWord (commandWord nbits w) s

end Sys2Proof.Machine
end

