-- ==== Sys2Proof/Reference.lean ====
section
/-! DEFINITION. The source's real-valued definitions of the colour functions, as R101 and R102 quote them, over
exact rationals. The machine does not use them; claims compare its integer forms with them. -/

namespace Sys2Proof.Reference

/-- `round_half_up(q)`: `floor(q + 1/2)` (R7). -/
def roundHalfUp (q : ℚ) : ℤ := ⌊q + 1 / 2⌋

/-- `q mod 2` of a rational `q >= 0` (R101). -/
def modTwo (q : ℚ) : ℚ := q - 2 * (⌊q / 2⌋ : ℤ)

/-- `C = v*s` (R101). -/
def chroma (s v : ℚ) : ℚ := v * s

/-- `X = C*(1 - |((h/60) mod 2) - 1|)` (R101). -/
def second (h s v : ℚ) : ℚ := chroma s v * (1 - |modTwo (h / 60) - 1|)

/-- `(r', g', b')` by the 60 degree sector of `h`, strict `<` on the upper bound (R101). -/
def sectorTriple (h c x : ℚ) : ℚ × ℚ × ℚ :=
  if h < 60 then (c, x, 0)
  else if h < 120 then (x, c, 0)
  else if h < 180 then (0, c, x)
  else if h < 240 then (0, x, c)
  else if h < 300 then (x, 0, c)
  else (c, 0, x)

/-- `hsv_to_rgb(h, s, v)` for `h` in [0,360), `s`, `v` in [0,1]: each channel `round((component' + m) * 255)`
with `m = v - C` (R101). -/
def hsvToRgb (h s v : ℚ) : ℤ × ℤ × ℤ :=
  let c := chroma s v
  let m := v - c
  let p := sectorTriple h c (second h s v)
  (roundHalfUp ((p.1 + m) * 255), roundHalfUp ((p.2.1 + m) * 255), roundHalfUp ((p.2.2 + m) * 255))

/-- One channel of `blend(a, b, factor)`: `a*(1-factor) + b*factor`, truncated (R102). -/
def blendChannel (a b factor : ℚ) : ℤ := ⌊a * (1 - factor) + b * factor⌋

end Sys2Proof.Reference
end

