-- ==== Sys2Proof/Safety.lean ====
section
/-! DEFINITION. What a good state and a good run are, in the terms the claims use. -/

namespace Sys2Proof.Machine

/-- The invariants of R45, R28, R32 and R37, the canonical form of the FrameBuffer, and what may be pending
on the response port: the rest of one `GETALL` snapshot (R123, log 5). -/
structure Inv (s : State) : Prop where
  /-- 64 pixels, in the grid, in canonical form (R45, log 7). -/
  fb : Memory.wf s.fb = true
  /-- `MODE <= 4` (R45). -/
  mode : s.mode.code.toNat ≤ 4
  /-- `MODE_SNAP <= 4` (R45). -/
  modeSnap : s.modeSnap.code.toNat ≤ 4
  /-- `HUE_OFFSET < 2880` (R45). -/
  hueRange : s.hueOffset.toNat < 2880
  /-- `HUE_OFFSET mod 16 = 0` (R45). -/
  hueStep : s.hueOffset.toNat % 16 = 0
  /-- `WAIT_MS <= 500` (R45). -/
  waitMs : s.waitMs.toNat ≤ 500
  /-- `LOCK_MS <= 99` (R45). -/
  lockMs : s.lockMs.toNat ≤ 99
  /-- The beats not yet taken are the rest of one snapshot's 64. -/
  pending : ∃ m k, s.respQ = (getallBeats m).drop k

/-- `k` atomic steps in an environment that makes the choices `choose`; none where one of them stops. -/
def runFrom (choose : Nat → Event) : Nat → State → Option State
  | 0, s => some s
  | k + 1, s =>
    match stepFrom choose s with
    | .next t => runFrom choose k t
    | .fault _ => none
    | .refused _ => none

/-- `k` atomic steps of the machine; none where one of them stops. -/
def stepN (k : Nat) (s : State) : Option State := runFrom Config.envEvent k s

/-- The event the next step takes, in an environment that makes the choices `choose`. -/
def eventFrom (choose : Nat → Event) (s : State) : Event := (takeFrom choose s).1

/-- The duty of the sink (R192): it "answers only what was asked". Every other event is welcome in every
state. -/
def eventAllowed (e : Event) (s : State) : Prop :=
  match e with
  | .submit _ => s.seq = .submit
  | .refresh _ => s.seq = .refresh
  | .rst _ => True
  | .cmd _ => True
  | .takeBeat => True
  | .ms => True
  | .grant => True
  | .grantWithMs _ => True

/-- The event is not a `RESET`. -/
def notReset (e : Event) : Prop := ∀ straps, e ≠ .rst straps

/-- No step of the first `k` is a `RESET`, and a tick is in progress before each of them (R31). -/
def withinTick (k : Nat) (s : State) : Prop :=
  ∀ j < k, ∀ u, stepN j s = some u → u.seq ≠ .wait ∧ notReset (takeEvent u).1

/-- PREMISE, the sink's fairness duty (R170, D33, U12): in the run from `s`, whenever a `SUBMIT` or `REFRESH` step is
enabled, one is taken at that point or later, unless a `RESET` makes the block forget the request (R211). The machine
does not assume it: a claim that needs it names it (log 13). -/
def sinkIsFair (choose : Nat → Event) (s : State) : Prop :=
  ∀ k u, runFrom choose k s = some u →
    (u.seq = .submit → ∃ j v, k ≤ j ∧ runFrom choose j s = some v ∧
      ((v.seq = .submit ∧ ∃ res, eventFrom choose v = .submit res) ∨ ¬ notReset (eventFrom choose v))) ∧
    (u.seq = .refresh → ∃ j v, k ≤ j ∧ runFrom choose j s = some v ∧
      ((v.seq = .refresh ∧ ∃ res, eventFrom choose v = .refresh res) ∨ ¬ notReset (eventFrom choose v)))

/-- PREMISE, the timebase's fairness duty (R170 "provided `MS` steps keep coming", U13): at every point of the run
from `s`, an `MS` step is taken at that point or later, alone or with a grant (log 9, log 13). -/
def timebaseIsFair (choose : Nat → Event) (s : State) : Prop :=
  ∀ k u, runFrom choose k s = some u →
    ∃ j v, k ≤ j ∧ runFrom choose j s = some v ∧
      (eventFrom choose v = .ms ∨ ∃ g, eventFrom choose v = .grantWithMs g)

/-- The first `k` steps of the run from `s` take no answer of the sink and no `RESET` (R170, U12). -/
def sinkIsSilent (choose : Nat → Event) (k : Nat) (s : State) : Prop :=
  ∀ j < k, ∀ u, runFrom choose j s = some u →
    notReset (eventFrom choose u) ∧
    ∀ res, eventFrom choose u ≠ .submit res ∧ eventFrom choose u ≠ .refresh res

/-- One `TickStart` for each 64-tuple of draws in the list, with nothing but the rest of each tick in between (R151):
nothing that `TickStart` reads or writes in `MODE`, the colours, the phase or `FB` changes there. -/
def ticks (draws : List Frame) (s : State) : State := draws.foldl (fun u rnd => tickStart rnd u) s

/-- The DisplayState registers (R24 to R27). -/
def State.displayRegs (s : State) : Mode × Color × Color × Byte :=
  (s.mode, s.primary, s.secondary, s.brightness)

/-- The phase registers (R28, R29). -/
def State.phaseRegs (s : State) : Hue × BitVec 3 := (s.hueOffset, s.gradOffset)

/-- The sequencer's own state (R31 to R38). -/
def State.seqRegs (s : State) :
    Seq × BitVec 9 × Frame × Byte × Mode × BitVec 6 × BitVec 7 × BitVec 30 :=
  (s.seq, s.waitMs, s.frame, s.brtSnap, s.modeSnap, s.pixIdx, s.lockMs, s.pixOut)

/-- What the sink is to receive for frame entry `i` of a snapshot (R161, R162, R172). -/
def wirePixel (frame : Frame) (brt : Byte) (i : BitVec 6) : Output :=
  .setPixel i (scale (green (frame.entry i)) brt) (scale (red (frame.entry i)) brt)
    (scale (blue (frame.entry i)) brt)

end Sys2Proof.Machine
end

