-- ==== Sys2Proof/Certificates/Slice0/Obligations.lean ====
section
/-! DEFINITION. The statements for the provers. Each docstring names the rule it comes from. Where a rule itself
rests on a decision of `92_eei_decisions.md`, the decision is the spec's, and the docstring names it. Where a
statement rests on a choice of the MODEL, the docstring says so and names the log entry. -/

open Sys2Proof Sys2Proof.Machine

/-! ### Encoding -/

/-- Decoding the encoding of any command gives it back, with every operand at every value its field admits (R71,
R79, R83; the field positions are the spec's decision D2). -/
def Obligations.DecodeInvertsEncode : Prop :=
  ∀ i : Instr, decode (encode i) = .ok i

/-- A word that decodes is the canonical word of what it decodes to: no second word means the same (R82 "every
word is either one of the thirteen commands in canonical form or illegal"). -/
def Obligations.DecodedWordsAreCanonical : Prop :=
  ∀ (w : Word) (i : Instr), decode w = .ok i → encode i = w

/-- R88, the masks and match values written out: a word is the command of a row exactly when
`cw & mask = match`, and a word that matches no row is illegal. -/
def Obligations.MaskAndMatchSelectTheRow : Prop :=
  let table : List (Opcode × Word × Word) :=
    [(.setpix, 0x0100000000000000#64, 0xFF0000000000FFFF#64),
     (.fill, 0x0200000000000000#64, 0xFFFFFF000000FFFF#64),
     (.getpix, 0x0300000000000000#64, 0xFF0000FFFFFFFFFF#64),
     (.getall, 0x0400000000000000#64, 0xFFFFFFFFFFFFFFFF#64),
     (.setmode, 0x1000000000000000#64, 0xFF00FFFFFFFFFFFF#64),
     (.setpri, 0x1100000000000000#64, 0xFFFFFF000000FFFF#64),
     (.setsec, 0x1200000000000000#64, 0xFFFFFF000000FFFF#64),
     (.setbrt, 0x1300000000000000#64, 0xFF00FFFFFFFFFFFF#64),
     (.scale, 0x2000000000000000#64, 0xFF0000FFFFFFFFFF#64),
     (.hsv2rgb, 0x2100000000000000#64, 0xFFF0000000FFFFFF#64),
     (.blend, 0x2200000000000000#64, 0xFFF8000000000000#64),
     (.wireord, 0x2300000000000000#64, 0xFFFFFF000000FFFF#64),
     (.render, 0x3000000000000000#64, 0xFFFFFFFFFFFFFFFF#64)]
  (∀ row ∈ table, ∀ w : Word,
    w &&& row.2.2 = row.2.1 ↔ ∃ i, decode w = .ok i ∧ i.opcode = row.1) ∧
  (∀ w : Word, (∃ e, decode w = .error e) ↔ ∀ row ∈ table, w &&& row.2.2 ≠ row.2.1)

/-- R187 (and R82, R190 checks 1 and 2): a word whose opcode is not one of the thirteen, or with a 1 in a
`ZERO` field of its format, is answered `IllegalCommand`, one beat, data 0, and changes nothing else; every other
word is one of the thirteen commands and is executed. The `ZERO` fields are R71's (decision D2), the refusal is
decision D5. -/
def Obligations.IllegalWordsAreRefused : Prop :=
  let zeroFields : List (BitVec 8 × Word) :=
    [(0x01#8, 0x000000000000FFFF#64), (0x02#8, 0x00FFFF000000FFFF#64), (0x03#8, 0x000000FFFFFFFFFF#64),
     (0x04#8, 0x00FFFFFFFFFFFFFF#64), (0x10#8, 0x0000FFFFFFFFFFFF#64), (0x11#8, 0x00FFFF000000FFFF#64),
     (0x12#8, 0x00FFFF000000FFFF#64), (0x13#8, 0x0000FFFFFFFFFFFF#64), (0x20#8, 0x000000FFFFFFFFFF#64),
     (0x21#8, 0x00F0000000FFFFFF#64), (0x22#8, 0x00F8000000000000#64), (0x23#8, 0x00FFFF000000FFFF#64),
     (0x30#8, 0x00FFFFFFFFFFFFFF#64)]
  (∀ (w : Word) (s : State),
    (∀ z ∈ zeroFields, w.extractLsb' 56 8 = z.1 → w &&& z.2 ≠ 0#64) →
    acceptWord w s
      = .next { s with trace := s.trace ++ [.response ⟨.illegalCommand, 0#32, true⟩] }) ∧
  (∀ (w : Word), (∃ z ∈ zeroFields, w.extractLsb' 56 8 = z.1 ∧ w &&& z.2 = 0#64) →
    ∃ i, decode w = .ok i ∧ ∀ s, acceptWord w s = exec i s)

/-- The words of the assembler table of R86 decode to the commands they stand for. -/
def Obligations.AssemblerTableWordsDecode : Prop :=
  decode 0x01020510FF800000#64 = .ok (.setpix 2#8 5#8 0x10FF80#24) ∧
  decode 0x020000FF00000000#64 = .ok (.fill 0xFF0000#24) ∧
  decode 0x0307070000000000#64 = .ok (.getpix 7#8 7#8) ∧
  decode 0x0400000000000000#64 = .ok .getall ∧
  decode 0x1001000000000000#64 = .ok (.setmode 1#8) ∧
  decode 0x110000FF80000000#64 = .ok (.setpri 0xFF8000#24) ∧
  decode 0x1200000040FF0000#64 = .ok (.setsec 0x0040FF#24) ∧
  decode 0x1380000000000000#64 = .ok (.setbrt 128#8) ∧
  decode 0x2080800000000000#64 = .ok (.scale 128#8 128#8) ∧
  decode 0x2103C0FFFF000000#64 = .ok (.hsv2rgb 960#12 255#8 255#8) ∧
  decode 0x2203FF00000000FF#64 = .ok (.blend 3#3 0xFF0000#24 0x0000FF#24) ∧
  decode 0x2300001122330000#64 = .ok (.wireord 0x112233#24) ∧
  decode 0x3000000000000000#64 = .ok .render

/-! ### The step -/

/-- When the next event is a command word that decodes to `i` and no beat of an earlier response is pending, the
step is `exec i` on the state without that event (R9, R59); and the word of `i`, presented to any state, is run by
the very next step. The event queue is the model's (log 2, log 8). -/
def Obligations.StepRunsTheDecodedCommand : Prop :=
  (∀ (s : State) (cw : Word) (rest : List Event) (i : Instr),
    s.inputs = .cmd cw :: rest → s.respQ = [] → decode cw = .ok i →
    step s = exec i { s with inputs := rest }) ∧
  (∀ (s : State) (i : Instr),
    step (s.withFetchWord 64 (encode i).toNat) = exec i { s with respQ := [] })

/-- A step takes the next queued event and reacts to it; with nothing queued it takes the environment's free choice
(R9: the order of steps is not fixed). MODEL'S CHOICE of form: log 2. -/
def Obligations.StepReactsToTheNextEvent : Prop :=
  (∀ (s : State) (e : Event) (rest : List Event),
    s.inputs = e :: rest → step s = react e { s with inputs := rest }) ∧
  (∀ s : State, s.inputs = [] →
    step s = react (Config.envEvent s.envIdx) { s with envIdx := s.envIdx + 1 })

/-- R40, R226: the response of a command is complete before the next command is accepted. While beats are pending, a
presented word stays where it is and one beat is delivered. MODEL'S CHOICE that the step delivers one: log 5. -/
def Obligations.PendingBeatsHoldTheNextCommand : Prop :=
  (∀ (s : State) (cw : Word) (rest : List Event) (b : Beat) (q : List Beat),
    s.inputs = .cmd cw :: rest → s.respQ = b :: q →
    step s = .next { s with respQ := q, trace := s.trace ++ [.response b] }) ∧
  (∀ (s : State) (rest : List Event) (b : Beat) (q : List Beat),
    s.inputs = .takeBeat :: rest → s.respQ = b :: q →
    step s = .next { s with inputs := rest, respQ := q, trace := s.trace ++ [.response b] })

/-- Every accepted word gets exactly one response of one beat, the last, and leaves none pending, except a `GETALL`,
whose 64 beats are pending and nothing has left yet (R40, R85; decision D4, log 5). -/
def Obligations.EveryWordIsAnswered : Prop :=
  ∀ (w : Word) (s : State), s.respQ = [] →
    ∃ t, acceptWord w s = .next t ∧
      ((decode w ≠ .ok .getall ∧ t.respQ = [] ∧
          ∃ b : Beat, b.last = true ∧ t.trace = s.trace ++ [.response b]) ∨
       (decode w = .ok .getall ∧ t.trace = s.trace ∧ t.respQ.length = 64))

/-- R180: a status other than `OK` means the command did nothing at all and carries data 0; the statuses produced
are those of the table, `InvalidChannelValue` never (R186). -/
def Obligations.RefusedWordsDoNothing : Prop :=
  ∀ (w : Word) (s t : State) (b : Beat),
    acceptWord w s = .next t → t.trace = s.trace ++ [.response b] →
    b.status ≠ .invalidChannelValue ∧
    (b.status ≠ .ok →
      b.data = 0#32 ∧ t = { s with trace := s.trace ++ [.response b] })

/-- Section 1 of `60_exceptions.md` with its section 3: which commands are refused, with which status and why, that a
refusal carries data 0 and changes nothing but the response, and the numeric codes: the statuses are 0 to 6 on
`resp_status` with 3 never produced, the diagnostics 1 to 3 on the diagnostic port (section 7 of `10_state.md`).
`GETALL` is never refused: its beats all carry `OK`; that they wait on the port is the MODEL's (log 5, DEDUCED and
DESIGN CHOICE). That the codes belong to enumerations without the unused ones is log 10. The codes and causes are the
spec's decisions D4, D12, D24, D35, D37. -/
def Obligations.StatusFollowsTheChecks : Prop :=
  (∀ (i : Instr) (s : State), i ≠ .getall →
    ∃ t b, exec i s = .next t ∧ t.trace = s.trace ++ [.response b] ∧
      (b.status = .ok ↔ i.wellFormed = true ∧ (i = .render → s.seq = .wait)) ∧
      (b.status = .outOfRange ↔ ∃ row col, (8 ≤ row.toNat ∨ 8 ≤ col.toNat) ∧
        ((∃ c, i = .setpix row col c) ∨ i = .getpix row col)) ∧
      (b.status = .unknownMode ↔ ∃ val, i = .setmode val ∧ 5 ≤ val.toNat) ∧
      (b.status = .domainError ↔ ∃ h sat v, i = .hsv2rgb h sat v ∧ 2880 ≤ h.toNat) ∧
      (b.status = .busy ↔ i = .render ∧ s.seq ≠ .wait) ∧
      (b.status.code = 0#4 ∨ b.status.code = 1#4 ∨ b.status.code = 2#4 ∨ b.status.code = 5#4 ∨
        b.status.code = 6#4) ∧
      (b.status ≠ .ok → b.data = 0#32 ∧ t = { s with trace := s.trace ++ [.response b] })) ∧
  (∀ s : State, ∃ q : List Beat,
    exec .getall s = .next { s with respQ := s.respQ ++ q } ∧ ∀ b ∈ q, b.status = .ok) ∧
  (∀ (w : Word) (s : State), (∃ e, decode w = .error e) → ∃ b : Beat,
    acceptWord w s = .next { s with trace := s.trace ++ [.response b] } ∧ b.status.code = 4#4 ∧
    b.data = 0#32) ∧
  (Status.code .ok = 0#4 ∧ Status.code .outOfRange = 1#4 ∧ Status.code .unknownMode = 2#4 ∧
    Status.code .invalidChannelValue = 3#4 ∧ Status.code .illegalCommand = 4#4 ∧
    Status.code .domainError = 5#4 ∧ Status.code .busy = 6#4) ∧
  (Diag.code .sinkPixelError = 1#4 ∧ Diag.code .sinkRefreshError = 2#4 ∧
    Diag.code .hardwareRefreshTimeout = 3#4)

/-! ### Colour units -/

/-- R100: `scale` is the exact floor, needs no clamp, and `scale_c` applies it to each channel independently. -/
def Obligations.ScaleIsTheFloorOfTheQuotient : Prop :=
  ∀ (v b : Byte),
    v.toNat * b.toNat ≤ 65025 ∧ v.toNat * b.toNat / 255 ≤ 255 ∧
    (scale v b).toNat = v.toNat * b.toNat / 255 ∧
    ∀ c : Color,
      red (scaleColor c b) = scale (red c) b ∧ green (scaleColor c b) = scale (green c) b ∧
      blue (scaleColor c b) = scale (blue c) b

/-- The laws of `scale` in R111 (marked there as derived): symmetric, monotone in each argument, at most either
argument; and 255 passes a channel unchanged, 0 darkens it (R162). -/
def Obligations.ScaleLaws : Prop :=
  ∀ x y : Byte,
    scale x y = scale y x ∧ (scale x y).toNat ≤ min x.toNat y.toNat ∧
    (∀ z : Byte, y.toNat ≤ z.toNat → (scale x y).toNat ≤ (scale x z).toNat) ∧
    scale x 255#8 = x ∧ scale x 0#8 = 0#8

/-- R104 whole: `SCALE`'s encoding, its result, that it writes no state, its statuses, its corner cases and its
example. The encoding and the response form are decisions D2, D4, D14. -/
def Obligations.ScaleCommandAnswersTheQuotient : Prop :=
  (∀ v b : Byte, decode (0x20#8 ++ v ++ b ++ 0#40) = .ok (.scale v b)) ∧
  (∀ (v b : Byte) (s : State), ∃ d : BitVec 32,
    d.toNat = v.toNat * b.toNat / 255 ∧
    exec (.scale v b) s = .next { s with trace := s.trace ++ [.response ⟨.ok, d, true⟩] }) ∧
  (∀ (w : Word) (s : State), w.extractLsb' 56 8 = 0x20#8 → w &&& 0x000000FFFFFFFFFF#64 ≠ 0#64 →
    acceptWord w s
      = .next { s with trace := s.trace ++ [.response ⟨.illegalCommand, 0#32, true⟩] }) ∧
  (∀ x : Byte, scale 0#8 x = 0#8 ∧ scale x 0#8 = 0#8 ∧ scale x 255#8 = x ∧ scale 255#8 x = x) ∧
  scale 1#8 254#8 = 0#8 ∧
  (∀ s : State, acceptWord 0x2080800000000000#64 s
    = .next { s with trace := s.trace ++ [.response ⟨.ok, 0x00000040#32, true⟩] })

/-- R101: the integer form of `hsv_to_rgb` equals the source's real-valued definition, evaluated exactly with ties
up, at every legal operand (grids: decisions D8, D9; exactness and ties: D10, D11). -/
def Obligations.HsvToRgbIsTheExactDefinition : Prop :=
  ∀ (h : Hue) (s v : Byte), h.toNat < 2880 →
    (((red (hsvToRgb h s v)).toNat : ℤ), ((green (hsvToRgb h s v)).toNat : ℤ),
      ((blue (hsvToRgb h s v)).toNat : ℤ))
      = Reference.hsvToRgb ((h.toNat : ℚ) / 8) ((s.toNat : ℚ) / 255) ((v.toNat : ℚ) / 255)

/-- The laws of `hsv_to_rgb_q` in R111 and R105 (derived there): the largest channel is `V`, the smallest is `lo`;
`S = 0` gives the grey, `V = 0` gives black. -/
def Obligations.HsvChannelsLieBetweenLoAndValue : Prop :=
  ∀ (h : Hue) (s v : Byte), h.toNat < 2880 →
    let c := hsvToRgb h s v
    max (red c).toNat (max (green c).toNat (blue c).toNat) = v.toNat ∧
    min (red c).toNat (min (green c).toNat (blue c).toNat)
      = (2 * v.toNat * (255 - s.toNat) + 255) / 510 ∧
    hsvToRgb h 0#8 v = rgb v v v ∧ hsvToRgb h s 0#8 = 0#24

/-- R105's effect: a legal hue is answered with the colour, a hue of 2880 or more with `DomainError` and data 0;
neither writes any state (decisions D12, D14). -/
def Obligations.Hsv2rgbCommandAnswersTheColour : Prop :=
  ∀ (h : Hue) (sat v : Byte) (s : State),
    (h.toNat < 2880 → exec (.hsv2rgb h sat v) s
      = .next { s with trace := s.trace ++ [.response ⟨.ok, 0#8 ++ hsvToRgb h sat v, true⟩] }) ∧
    (2880 ≤ h.toNat → exec (.hsv2rgb h sat v) s
      = .next { s with trace := s.trace ++ [.response ⟨.domainError, 0#32, true⟩] })

/-- R102 whole: per channel the source's `a*(1-factor) + b*factor` at `factor = N/7`, truncated, lying between the
two channels; `N = 0` returns `a`, `N = 7` returns `b`, equal channels are kept (decisions D10, D13). -/
def Obligations.BlendIsTheTruncatedInterpolation : Prop :=
  (∀ (x y : Byte) (n : BitVec 3),
    x.toNat * (7 - n.toNat) + y.toNat * n.toNat ≤ 1785 ∧
    (blendChannel x y n).toNat = (x.toNat * (7 - n.toNat) + y.toNat * n.toNat) / 7 ∧
    ((blendChannel x y n).toNat : ℤ)
      = Reference.blendChannel (x.toNat : ℚ) (y.toNat : ℚ) ((n.toNat : ℚ) / 7) ∧
    min x.toNat y.toNat ≤ (blendChannel x y n).toNat ∧
    (blendChannel x y n).toNat ≤ max x.toNat y.toNat ∧ blendChannel x x n = x) ∧
  (∀ (a b : Color) (n : BitVec 3),
    red (blend a b n) = blendChannel (red a) (red b) n ∧
    green (blend a b n) = blendChannel (green a) (green b) n ∧
    blue (blend a b n) = blendChannel (blue a) (blue b) n ∧
    blend a b 0#3 = a ∧ blend a b 7#3 = b)

/-- R106 whole: `BLEND`'s encoding, its result, that it writes no state and has no domain error, its statuses, its
corner cases and its example (decisions D2, D4, D14). -/
def Obligations.BlendCommandAnswersTheInterpolation : Prop :=
  (∀ (n : BitVec 3) (a b : Color), decode (0x22#8 ++ 0#5 ++ n ++ a ++ b) = .ok (.blend n a b)) ∧
  (∀ (n : BitVec 3) (a b : Color) (s : State), exec (.blend n a b) s
    = .next { s with trace := s.trace ++ [.response ⟨.ok, 0#8 ++ blend a b n, true⟩] }) ∧
  (∀ (w : Word) (s : State), w.extractLsb' 56 8 = 0x22#8 → w &&& 0x00F8000000000000#64 ≠ 0#64 →
    acceptWord w s
      = .next { s with trace := s.trace ++ [.response ⟨.illegalCommand, 0#32, true⟩] }) ∧
  (∀ (n : BitVec 3) (a b : Color), blend a b 0#3 = a ∧ blend a b 7#3 = b ∧ blend a a n = a) ∧
  blendChannel 0#8 6#8 1#3 = 0#8 ∧ blendChannel 0#8 7#8 1#3 = 1#8 ∧
  (∀ s : State, acceptWord 0x2203FF00000000FF#64 s
    = .next { s with trace := s.trace ++ [.response ⟨.ok, 0x0091006D#32, true⟩] })

/-- R107 whole: `WIREORD`'s encoding, its result `(c1, c2, c3) = (G, R, B)`, that it writes no state, its statuses,
that a grey is unchanged, and its example (decisions D2, D4, D14). -/
def Obligations.WireordCommandAnswersTheWireTriple : Prop :=
  (∀ c : Color, decode (0x23#8 ++ 0#16 ++ c ++ 0#16) = .ok (.wireord c)) ∧
  (∀ (r g b : Byte) (s : State), exec (.wireord (rgb r g b)) s
    = .next { s with trace := s.trace ++ [.response ⟨.ok, 0#8 ++ g ++ r ++ b, true⟩] }) ∧
  (∀ c : Color, ∃ r g b : Byte, c = rgb r g b) ∧
  (∀ (w : Word) (s : State), w.extractLsb' 56 8 = 0x23#8 → w &&& 0x00FFFF000000FFFF#64 ≠ 0#64 →
    acceptWord w s
      = .next { s with trace := s.trace ++ [.response ⟨.illegalCommand, 0#32, true⟩] }) ∧
  (∀ x : Byte, wireOrder (rgb x x x) = rgb x x x) ∧
  (∀ s : State, acceptWord 0x2300001122330000#64 s
    = .next { s with trace := s.trace ++ [.response ⟨.ok, 0x00221133#32, true⟩] })

/-- R111 and R103 (derived there): `wire_order` is its own inverse and commutes with the scaler. -/
def Obligations.WireOrderIsAnInvolutionAndCommutes : Prop :=
  ∀ (c : Color) (br : Byte),
    wireOrder (wireOrder c) = c ∧ wireOrder (scaleColor c br) = scaleColor (wireOrder c) br

/-! ### FrameBuffer commands -/

/-- R120's effect and frame: at the pixel the coordinate pair addresses the colour is stored, every other pixel reads
as before, nothing else changes but the response, and the FrameBuffer stays canonical (log 7). -/
def Obligations.SetpixStoresOnePixel : Prop :=
  (∀ row col : Byte, row.toNat < 8 → col.toNat < 8 →
    pixelIndex row col = some (row.toNat * 8 + col.toNat)) ∧
  (∀ (row col : Byte) (c : Color) (s : State) (a : Nat), pixelIndex row col = some a →
    ∃ m : Memory,
      exec (.setpix row col c) s
        = .next { s with fb := m, trace := s.trace ++ [.response ⟨.ok, 0#32, true⟩] } ∧
      Memory.read m a = c ∧ (∀ j, j ≠ a → Memory.read m j = Memory.read s.fb j) ∧
      (Memory.wf s.fb = true → Memory.wf m = true))

/-- R55, R182: a coordinate outside the grid is refused with `OutOfRange`, nothing read, nothing written. -/
def Obligations.OutOfRangeCoordinatesAreRefused : Prop :=
  ∀ (row col : Byte) (c : Color) (s : State), 8 ≤ row.toNat ∨ 8 ≤ col.toNat →
    exec (.setpix row col c) s
      = .next { s with trace := s.trace ++ [.response ⟨.outOfRange, 0#32, true⟩] } ∧
    exec (.getpix row col) s
      = .next { s with trace := s.trace ++ [.response ⟨.outOfRange, 0#32, true⟩] }

/-- R121's effect and frame: all 64 pixels hold the colour after the one step, no other index is touched, nothing
else changes but the response, and the FrameBuffer stays canonical (log 7). -/
def Obligations.FillStoresEveryPixel : Prop :=
  ∀ (c : Color) (s : State), ∃ m : Memory,
    exec (.fill c) s
      = .next { s with fb := m, trace := s.trace ++ [.response ⟨.ok, 0#32, true⟩] } ∧
    (∀ j, Memory.read m j = if j < 64 then c else Memory.read s.fb j) ∧
    (Memory.wf s.fb = true → Memory.wf m = true)

/-- R122's effect: a legal pair is answered with the pixel, zero-extended; no state changes, so every pixel reads as
before. -/
def Obligations.GetpixAnswersThePixel : Prop :=
  ∀ (row col : Byte) (s : State), row.toNat < 8 → col.toNat < 8 →
    exec (.getpix row col) s
      = .next { s with trace := s.trace ++
          [.response ⟨.ok, 0#8 ++ Memory.read s.fb (row.toNat * 8 + col.toNat), true⟩] }

/-- R123, R85: `GETALL` answers 64 beats, all read in the one step, beat `k` carrying `OK`, row `k div 8`, column
`k mod 8` and `FB[k]`, `resp_last` on beat 63 only; no other state changes. That the beats wait on the port is log 5. -/
def Obligations.GetallSnapshotsEveryPixel : Prop :=
  ∀ s : State, ∃ q : List Beat,
    exec .getall s = .next { s with respQ := s.respQ ++ q } ∧ q.length = 64 ∧
    ∀ k, k < 64 → ∃ b, q[k]? = some b ∧ b.status = .ok ∧ (b.last = true ↔ k = 63) ∧
      b.data.extractLsb' 30 2 = 0#2 ∧ (b.data.extractLsb' 27 3).toNat = k / 8 ∧
      (b.data.extractLsb' 24 3).toNat = k % 8 ∧ b.data.extractLsb' 0 24 = Memory.read s.fb k

/-- R40, R123, R226: a command presented after a `GETALL` is accepted only when all 64 beats of the snapshot have been
delivered, in order; until then it waits and nothing else changes. Rests on log 5. -/
def Obligations.GetallResponseCompletesFirst : Prop :=
  ∀ (s : State) (w : Word) (rest : List Event),
    s.respQ = [] → s.inputs = .cmd 0x0400000000000000#64 :: .cmd w :: rest →
    stepN 65 s = some { s with
      inputs := .cmd w :: rest
      trace := s.trace ++ (getallBeats s.fb).map Output.response }

/-! ### DisplayState commands -/

/-- R130's effect and frame, R24, R81: codes 0 to 4 select the five modes in the source's order, any other code is
refused with `UnknownMode`; nothing else changes but the response (codes: decision D3). -/
def Obligations.SetmodeWritesTheMode : Prop :=
  ∀ (val : Byte) (s : State),
    (∀ m : Mode, val.toNat = m.code.toNat → exec (.setmode val) s
      = .next { s with mode := m, trace := s.trace ++ [.response ⟨.ok, 0#32, true⟩] }) ∧
    (4 < val.toNat → exec (.setmode val) s
      = .next { s with trace := s.trace ++ [.response ⟨.unknownMode, 0#32, true⟩] }) ∧
    (val.toNat ≤ 4 → ∃ m : Mode, val.toNat = m.code.toNat) ∧
    Mode.code .static = 0#3 ∧ Mode.code .rainbow = 1#3 ∧ Mode.code .checkerboard = 2#3 ∧
    Mode.code .gradient = 3#3 ∧ Mode.code .random = 4#3

/-- The effects and frames of R131, R132, R133: each command writes its register and nothing else changes but the
response. -/
def Obligations.ColourAndBrightnessCommandsWriteTheirRegister : Prop :=
  ∀ (c : Color) (v : Byte) (s : State),
    exec (.setpri c) s
      = .next { s with primary := c, trace := s.trace ++ [.response ⟨.ok, 0#32, true⟩] } ∧
    exec (.setsec c) s
      = .next { s with secondary := c, trace := s.trace ++ [.response ⟨.ok, 0#32, true⟩] } ∧
    exec (.setbrt v) s
      = .next { s with brightness := v, trace := s.trace ++ [.response ⟨.ok, 0#32, true⟩] }

/-- The access summary of R30 with R56, R134 and R148, and, for the sequencer's registers and the colour units, sections
5 and 7 of `10_state.md`, section 2 of `40_colormath.md` and `41_framebuffer.md`, over all commands: a register changes
only under the command that owns it, the FrameBuffer only under `SETPIX` and `FILL`, and the phase and sequencer
registers only under `RENDER`. That `GETALL` alone changes the pending beats rests on the MODEL holding them (log 5,
DEDUCED and DESIGN CHOICE). -/
def Obligations.CommandsWriteOnlyWhatTheyOwn : Prop :=
  ∀ (i : Instr) (s t : State), exec i s = .next t →
    (t.mode ≠ s.mode → i.opcode = .setmode) ∧
    (t.primary ≠ s.primary → i.opcode = .setpri) ∧
    (t.secondary ≠ s.secondary → i.opcode = .setsec) ∧
    (t.brightness ≠ s.brightness → i.opcode = .setbrt) ∧
    (t.fb ≠ s.fb → i.opcode = .setpix ∨ i.opcode = .fill) ∧
    (t.phaseRegs ≠ s.phaseRegs → i.opcode = .render) ∧
    (t.seqRegs ≠ s.seqRegs → i.opcode = .render) ∧
    (t.respQ ≠ s.respQ → i.opcode = .getall)

/-- R135 over whole steps: the mode changes only where the step takes a `RESET` or accepts a `SETMODE` of that mode's
code, and no other event changes it: "not a tick, not an error, not a timeout". -/
def Obligations.ModeChangesOnlyBySetmode : Prop :=
  ∀ s t : State, step s = .next t → t.mode ≠ s.mode →
    (∃ straps, (takeEvent s).1 = .rst straps ∧ t.mode = .static) ∨
    (∃ cw val, (takeEvent s).1 = .cmd cw ∧ s.respQ = [] ∧ decode cw = .ok (.setmode val) ∧
      val.toNat = t.mode.code.toNat)

/-- R56 and R148 over whole steps: the FrameBuffer changes only where the step takes a `RESET` or accepts a `SETPIX` or
a `FILL`; the sequencer never mutates it. -/
def Obligations.FrameBufferChangesOnlyByItsCommands : Prop :=
  ∀ s t : State, step s = .next t → t.fb ≠ s.fb →
    (∃ straps, (takeEvent s).1 = .rst straps ∧ t.fb = []) ∨
    (∃ cw i, (takeEvent s).1 = .cmd cw ∧ s.respQ = [] ∧ decode cw = .ok i ∧
      (i.opcode = .setpix ∨ i.opcode = .fill))

/-! ### Sequencer -/

/-- R142: what `TickStart` writes, from the state at the start of the step, for every 64-tuple of draws; the phase
register of the active mode advances and the other keeps its value. -/
def Obligations.TickStartTakesTheSnapshot : Prop :=
  ∀ (rnd : Frame) (s : State),
    tickStart rnd s = { s with
      modeSnap := s.mode
      brtSnap := s.brightness
      frame := (tickStart rnd s).frame
      hueOffset := (tickStart rnd s).hueOffset
      gradOffset := (tickStart rnd s).gradOffset
      pixIdx := 0#6
      waitMs := 0#9
      seq := .submit } ∧
    (tickStart rnd s).hueOffset.toNat
      = (if s.mode = .rainbow then (s.hueOffset.toNat + 16) % 2880 else s.hueOffset.toNat) ∧
    (tickStart rnd s).gradOffset.toNat
      = (if s.mode = .gradient then (s.gradOffset.toNat + 1) % 8 else s.gradOffset.toNat)

/-- R143 and R147: in Static mode the frame is the FrameBuffer, in Random mode it is the draws, whatever they are
(free values, log 3). -/
def Obligations.StaticAndRandomFrames : Prop :=
  (∀ (rnd : Frame) (s : State), s.mode = .static →
    ∀ i : Fin 64, (tickStart rnd s).frame[i] = Memory.read s.fb i.val) ∧
  (∀ (rnd : Frame) (s : State), s.mode = .random → (tickStart rnd s).frame = rnd) ∧
  (∀ (s : State), s.mode = .random →
    ∀ i : Fin 64, (startTick s).frame[i] = Config.rnd (s.drawIdx + i.val)) ∧
  (∀ s : State, (startTick s).drawIdx = s.drawIdx + 64)

/-- R144's rule: pixel `i` of a Rainbow frame has hue `(off + 45*i) mod 2880` with `S = V = 255`, for the offset at the start
of the step, which then advances by 16 modulo 2880; neither the colours nor the FrameBuffer is read. -/
def Obligations.RainbowFrame : Prop :=
  (∀ (rnd : Frame) (s : State), s.mode = .rainbow →
    (∀ i : Fin 64, ∃ h : Hue, h.toNat = (s.hueOffset.toNat + 45 * i.val) % 2880 ∧
      (tickStart rnd s).frame[i] = hsvToRgb h 255#8 255#8) ∧
    (tickStart rnd s).hueOffset.toNat = (s.hueOffset.toNat + 16) % 2880) ∧
  (∀ (rnd : Frame) (s u : State), s.mode = .rainbow → u.mode = .rainbow → u.hueOffset = s.hueOffset →
    (tickStart rnd u).frame = (tickStart rnd s).frame)

/-- R145 whole: the checkerboard of primary and secondary, pixel (0,0) primary; no phase register is read or
written. -/
def Obligations.CheckerboardFrame : Prop :=
  (∀ (rnd : Frame) (s : State), s.mode = .checkerboard →
    (∀ row col : Fin 8, (tickStart rnd s).frame[row.val * 8 + col.val]'(by omega)
      = if (row.val + col.val) % 2 = 0 then s.primary else s.secondary) ∧
    (tickStart rnd s).frame[0] = s.primary ∧ (tickStart rnd s).phaseRegs = s.phaseRegs) ∧
  (∀ (rnd : Frame) (s : State) (hue : Hue) (grad : BitVec 3), s.mode = .checkerboard →
    (tickStart rnd { s with hueOffset := hue, gradOffset := grad }).frame = (tickStart rnd s).frame)

/-- R146 whole: pixel `(row, col)` of a Gradient frame is the blend at `N = (col + off) mod 8`, for the offset at the
start of the step, which then advances by 1 modulo 8; all rows are equal; at offset 0 column 0 is the primary and
column 7 the secondary colour; and the next tick's frame is this one moved one column to the left, around. -/
def Obligations.GradientFrame : Prop :=
  ∀ (rnd : Frame) (s : State), s.mode = .gradient →
    (∀ row col : Fin 8, ∃ n : BitVec 3, n.toNat = (col.val + s.gradOffset.toNat) % 8 ∧
      (tickStart rnd s).frame[row.val * 8 + col.val]'(by omega) = blend s.primary s.secondary n) ∧
    (∀ row row' col : Fin 8, (tickStart rnd s).frame[row.val * 8 + col.val]'(by omega)
      = (tickStart rnd s).frame[row'.val * 8 + col.val]'(by omega)) ∧
    (s.gradOffset = 0#3 → ∀ row : Fin 8,
      (tickStart rnd s).frame[row.val * 8]'(by omega) = s.primary ∧
      (tickStart rnd s).frame[row.val * 8 + 7]'(by omega) = s.secondary) ∧
    (∀ row col : Fin 8, (tickStart rnd (tickStart rnd s)).frame[row.val * 8 + col.val]'(by omega)
      = (tickStart rnd s).frame[row.val * 8 + (col.val + 1) % 8]'(by omega)) ∧
    (tickStart rnd s).gradOffset.toNat = (s.gradOffset.toNat + 1) % 8

/-- Section 5 of `43_sequencer.md`: in Rainbow mode the hue offset returns after 180 ticks and not sooner, and the next
frame with it; in Gradient mode the gradient offset returns after 8 ticks and not sooner, and the next frame with it;
in Checkerboard and Static mode a tick's frame is that of the tick before. For any draws of any of the ticks. -/
def Obligations.PhasePeriods : Prop :=
  (∀ (draws : List Frame) (s : State), s.mode = .rainbow → s.hueOffset.toNat < 2880 →
    (draws.length = 180 → (ticks draws s).hueOffset = s.hueOffset ∧
      ∀ rnd rnd' : Frame, (tickStart rnd (ticks draws s)).frame = (tickStart rnd' s).frame) ∧
    (0 < draws.length → draws.length < 180 → (ticks draws s).hueOffset ≠ s.hueOffset)) ∧
  (∀ (draws : List Frame) (s : State), s.mode = .gradient →
    (draws.length = 8 → (ticks draws s).gradOffset = s.gradOffset ∧
      ∀ rnd rnd' : Frame, (tickStart rnd (ticks draws s)).frame = (tickStart rnd' s).frame) ∧
    (0 < draws.length → draws.length < 8 → (ticks draws s).gradOffset ≠ s.gradOffset)) ∧
  (∀ (rnd rnd' : Frame) (s : State), s.mode = .checkerboard ∨ s.mode = .static →
    (tickStart rnd (tickStart rnd' s)).frame = (tickStart rnd' s).frame)

/-- R150's effect: between ticks `RENDER` answers `OK` and starts a tick with the next 64 draws; while a tick is in
progress it is refused with `Busy` and nothing changes (decisions D18, D35). -/
def Obligations.RenderStartsATickOrIsBusy : Prop :=
  (∀ s : State, s.seq = .wait → ∃ rnd : Frame,
    (∀ i : Fin 64, rnd[i] = Config.rnd (s.drawIdx + i.val)) ∧
    exec .render s = .next { tickStart rnd s with
      drawIdx := s.drawIdx + 64
      trace := s.trace ++ [.response ⟨.ok, 0#32, true⟩] }) ∧
  (∀ s : State, s.seq ≠ .wait → exec .render s
    = .next { s with trace := s.trace ++ [.response ⟨.busy, 0#32, true⟩] })

/-- R141's pseudocode: an `MS` step between ticks starts a tick when `WAIT_MS <= 1` and otherwise counts down. -/
def Obligations.MsCountsDownOrStartsATick : Prop :=
  ∀ s : State, s.seq = .wait →
    (s.waitMs.toNat ≤ 1 → react .ms s = .next (startTick s)) ∧
    (1 < s.waitMs.toNat → ∃ w : BitVec 9, w.toNat = s.waitMs.toNat - 1 ∧
      react .ms s = .next { s with waitMs := w })

/-- R141: after a tick ends with `WAIT_MS = n`, the next tick starts at the `n`-th `MS` step that follows, and until
then the sequencer waits and nothing leaves the block. -/
def Obligations.IntervalWaitLastsItsCount : Prop :=
  ∀ (s : State) (n : Nat) (rest : List Event),
    s.seq = .wait → s.waitMs.toNat = n → 1 ≤ n → s.inputs = List.replicate n .ms ++ rest →
    (∀ k, k < n → ∃ t, stepN k s = some t ∧ t.seq = .wait ∧ t.waitMs.toNat = n - k ∧
      t.trace = s.trace ∧ t.frame = s.frame) ∧
    (∃ t, stepN n s = some t ∧ t.seq = .submit ∧ t.pixIdx = 0#6 ∧ t.modeSnap = s.mode ∧
      t.trace = s.trace ∧ t.inputs = rest)

/-- R152 whole: the `MS` step while `SEQ = Submit` or `SEQ = Refresh` changes no state (decision D16). -/
def Obligations.MsIsIdleWhileSubmittingOrRefreshing : Prop :=
  ∀ s : State, s.seq = .submit ∨ s.seq = .refresh → react .ms s = .next s

/-- The transition table of R140, all of it: whenever an event changes `SEQ`, the change is one of the table's rows,
under the row's condition (with R191's simultaneous grant and pulse: a grant or a pulse row). -/
def Obligations.SequencerTransitionTable : Prop :=
  ∀ (e : Event) (s t : State), react e s = .next t → t.seq ≠ s.seq →
    (s.seq = .wait ∧ t.seq = .submit ∧ s.waitMs.toNat ≤ 1 ∧ (e = .ms ∨ ∃ g, e = .grantWithMs g)) ∨
    (s.seq = .wait ∧ t.seq = .submit ∧ s.respQ = [] ∧ ∃ cw, e = .cmd cw ∧ decode cw = .ok .render) ∨
    (s.seq = .submit ∧ t.seq = .lockWait ∧ s.pixIdx.toNat = 63 ∧ ∃ res, e = .submit res) ∨
    (s.seq = .lockWait ∧ t.seq = .refresh ∧ (e = .grant ∨ ∃ g, e = .grantWithMs g)) ∨
    (s.seq = .lockWait ∧ t.seq = .wait ∧ 99 ≤ s.lockMs.toNat ∧ e = .ms) ∨
    (s.seq = .refresh ∧ t.seq = .wait ∧ ∃ res, e = .refresh res) ∨
    (t.seq = .wait ∧ ∃ straps, e = .rst straps)

/-! ### Renderer -/

/-- R161 with the arithmetic of R162: one `SUBMIT` step outputs the scaled pixel in wire order under its index, holds it
in `PIXOUT`, diagnoses an error after it, and goes on to the next pixel or, after pixel 63, to the lock wait. -/
def Obligations.SubmitOutputsOnePixel : Prop :=
  ∀ (res : SinkAnswer) (s : State), s.seq = .submit →
    ∃ (c1 c2 c3 : Byte) (p : BitVec 30),
      c1.toNat = (green (s.frame.entry s.pixIdx)).toNat * s.brtSnap.toNat / 255 ∧
      c2.toNat = (red (s.frame.entry s.pixIdx)).toNat * s.brtSnap.toNat / 255 ∧
      c3.toNat = (blue (s.frame.entry s.pixIdx)).toNat * s.brtSnap.toNat / 255 ∧
      p.extractLsb' 24 6 = s.pixIdx ∧ p.extractLsb' 16 8 = c1 ∧ p.extractLsb' 8 8 = c2 ∧
      p.extractLsb' 0 8 = c3 ∧
      (s.pixIdx.toNat < 63 → ∃ i : BitVec 6, i.toNat = s.pixIdx.toNat + 1 ∧
        react (.submit res) s = .next { s with
          pixOut := p, pixIdx := i
          trace := s.trace ++ (.setPixel s.pixIdx c1 c2 c3 ::
            (if res = .err then [.diag .sinkPixelError s.pixIdx] else [])) }) ∧
      (s.pixIdx.toNat = 63 → react (.submit res) s = .next { s with
          pixOut := p, lockMs := 0#7, seq := .lockWait
          trace := s.trace ++ (.setPixel s.pixIdx c1 c2 c3 ::
            (if res = .err then [.diag .sinkPixelError s.pixIdx] else [])) })

/-- R163: the sink's errors change nothing in the block's state: with either answer the step leaves the same state,
and the two differ only by the diagnostic event. -/
def Obligations.SinkErrorsOnlyAddADiagnostic : Prop :=
  (∀ s : State, s.seq = .submit → ∃ t, react (.submit .ok) s = .next t ∧
    react (.submit .err) s
      = .next { t with trace := t.trace ++ [.diag .sinkPixelError s.pixIdx] }) ∧
  (∀ s : State, s.seq = .refresh → ∃ t, react (.refresh .ok) s = .next t ∧
    react (.refresh .err) s
      = .next { t with trace := t.trace ++ [.diag .sinkRefreshError 0#6] })

/-- R165: the grant of a waited-for lock issues the refresh and moves the sequencer to `Refresh`; R169: a grant in any
other state changes nothing, and after a timeout the block no longer requests the lock (decision D23). -/
def Obligations.GrantIssuesTheRefresh : Prop :=
  (∀ s : State, s.seq = .lockWait →
    react .grant s = .next { s with seq := .refresh, trace := s.trace ++ [.refresh] }) ∧
  (∀ s : State, s.seq ≠ .lockWait → react .grant s = .next s) ∧
  (∀ s t : State, s.seq = .lockWait → 99 ≤ s.lockMs.toNat → react .ms s = .next t →
    lockReq t = false ∧ react .grant t = .next t)

/-- R166's pseudocode with R168: an `MS` step of a lock wait counts, and the 100th gives up with one warning
diagnostic, no refresh, and the cadence of the rendered mode. -/
def Obligations.MsBoundsTheLockWait : Prop :=
  ∀ s : State, s.seq = .lockWait →
    (s.lockMs.toNat < 99 → ∃ l : BitVec 7, l.toNat = s.lockMs.toNat + 1 ∧
      react .ms s = .next { s with lockMs := l }) ∧
    (99 ≤ s.lockMs.toNat → react .ms s = .next { s with
      waitMs := cadenceMs s.modeSnap, lockMs := 0#7, seq := .wait
      trace := s.trace ++ [.diag .hardwareRefreshTimeout 0#6] })

/-- R166: the bound is 100 `MS` steps counted from the entry to `LockWait`: 99 of them emit nothing and leave the wait on,
the 100th times it out. -/
def Obligations.LockWaitTimesOutAtTheHundredthPulse : Prop :=
  ∀ (s : State) (rest : List Event),
    s.seq = .lockWait → s.lockMs = 0#7 → s.inputs = List.replicate 100 .ms ++ rest →
    (∀ k, k < 100 → ∃ t, stepN k s = some t ∧ t.seq = .lockWait ∧ t.lockMs.toNat = k ∧
      t.trace = s.trace) ∧
    stepN 100 s = some { s with
      waitMs := cadenceMs s.modeSnap, lockMs := 0#7, seq := .wait, inputs := rest
      trace := s.trace ++ [.diag .hardwareRefreshTimeout 0#6] }

/-- R191, the one tie the spec breaks: a grant and the 100th pulse of a lock wait at the same instant count as the grant
first (decision D23). MODEL'S CHOICE of an event for the pair: log 9. -/
def Obligations.GrantWinsTheTie : Prop :=
  ∀ (g : Bool) (s : State), s.seq = .lockWait → 99 ≤ s.lockMs.toNat →
    react (.grantWithMs g) s = .next { s with seq := .refresh, trace := s.trace ++ [.refresh] }

/-- R167, R168, R149: the refresh's answer ends the tick whatever it is; `WAIT_MS` is reloaded with the cadence of the
mode the tick rendered: 100, 50, 500, 100, 200. -/
def Obligations.RefreshEndsTheTick : Prop :=
  ∀ (res : SinkAnswer) (s : State), s.seq = .refresh →
    ∃ w : BitVec 9,
      w.toNat = (match s.modeSnap with
        | .static => 100 | .rainbow => 50 | .checkerboard => 500 | .gradient => 100 | .random => 200) ∧
      react (.refresh res) s = .next { s with
        waitMs := w, lockMs := 0#7, seq := .wait
        trace := s.trace ++ (if res = .err then [.diag .sinkRefreshError 0#6] else []) }

/-- R42 and R64, R171: `lock_req` is 1 exactly in `LockWait` and `Refresh`; a step that starts with the lock requested
computes no frame: unless it is a `RESET`, it leaves the frame and both snapshots alone. -/
def Obligations.NoFrameIsComputedUnderTheLock : Prop :=
  (∀ s : State, lockReq s = true ↔ s.seq = .lockWait ∨ s.seq = .refresh) ∧
  (∀ (e : Event) (s t : State), react e s = .next t → notReset e → lockReq s = true →
    t.frame = s.frame ∧ t.brtSnap = s.brtSnap ∧ t.modeSnap = s.modeSnap)

/-- R60 over single steps: while a tick is in progress nothing but a `RESET` changes its snapshot. -/
def Obligations.SnapshotIsFixedDuringATick : Prop :=
  ∀ s t : State, step s = .next t → s.seq ≠ .wait → notReset (takeEvent s).1 →
    t.frame = s.frame ∧ t.brtSnap = s.brtSnap ∧ t.modeSnap = s.modeSnap

/-- The concurrency property (R60, the source's section 8): over any run of steps inside one tick, whatever commands,
pulses and answers come in between, every pixel handed to the sink is the snapshot's own pixel, scaled by the
snapshot's brightness and in wire order. No pixel of another frame and no torn pixel ever leaves. -/
def Obligations.NoTornFrames : Prop :=
  ∀ (k : Nat) (s t : State), withinTick k s → stepN k s = some t →
    ∃ os, t.trace = s.trace ++ os ∧
      ∀ i c1 c2 c3, Output.setPixel i c1 c2 c3 ∈ os →
        Output.setPixel i c1 c2 c3 = wirePixel s.frame s.brtSnap i

/-- R172 with R160, R168 (bounded liveness): from a started tick, 64 answers, a grant and an answer bring the sequencer
back to `Wait`; what leaves is, in order, the 64 pixels of the snapshot each followed by the diagnostic of an erring
answer, one refresh, and the diagnostic of an erring refresh. Rests on the sink answering (R170). -/
def Obligations.TickOutputsInOrder : Prop :=
  ∀ (s : State) (answers : List SinkAnswer) (res : SinkAnswer) (rest : List Event),
    s.seq = .submit → s.pixIdx = 0#6 → answers.length = 64 →
    s.inputs = answers.map Event.submit ++ [.grant, .refresh res] ++ rest →
    ∃ t, stepN 66 s = some t ∧ t.seq = .wait ∧ t.waitMs = cadenceMs s.modeSnap ∧
      t.inputs = rest ∧ t.fb = s.fb ∧ t.displayRegs = s.displayRegs ∧ t.phaseRegs = s.phaseRegs ∧
      t.trace = s.trace ++
        ((List.range 64).flatMap fun i =>
          wirePixel s.frame s.brtSnap (BitVec.ofNat 6 i) ::
            answerDiag (answers.getD i .ok) .sinkPixelError (BitVec.ofNat 6 i)) ++
        [.refresh] ++ answerDiag res .sinkRefreshError 0#6

/-- R61, R125, R221: in any mode but Static the FrameBuffer is hidden: what it holds makes no difference to the frame a
tick computes or to anything else the tick start writes. -/
def Obligations.FrameBufferIsHiddenOutsideStatic : Prop :=
  ∀ (rnd : Frame) (s : State) (m : Memory), s.mode ≠ .static →
    tickStart rnd { s with fb := m } = { tickStart rnd s with fb := m }

/-! ### Reset and whole-machine rules -/

/-- R46 and R210: after a `RESET` from any state every piece of state of R20 has its value of the table, the straps
sampled. Every value but the zeroed FrameBuffer is the spec's decision D17, D27 or an OPEN parameter. -/
def Obligations.ResetWritesTheTable : Prop :=
  ∀ (straps : Straps) (s : State), ∃ t, react (.rst straps) s = .next t ∧
    (∀ i, Memory.read t.fb i = 0#24) ∧ t.mode = .static ∧ t.primary = straps.primary ∧
    t.secondary = straps.secondary ∧ t.brightness = straps.brightness ∧ t.hueOffset = 0#12 ∧
    t.gradOffset = 0#3 ∧ t.seq = .wait ∧ t.waitMs = 0#9 ∧ (∀ i : Fin 64, t.frame[i] = 0#24) ∧
    t.brtSnap = 0#8 ∧ t.modeSnap = .static ∧ t.pixIdx = 0#6 ∧ t.lockMs = 0#7 ∧ t.pixOut = 0#30

/-- R211: a reset abandons whatever is going on: the beats not taken are dropped, nothing leaves the block, `lock_req`
falls, and `RENDER` is welcome again (R212). That beats can be pending is log 5; that what has left stays recorded
and what the environment has queued, chosen and drawn stays as it is, is the MODEL'S CHOICE (log 2, log 3, log 6). -/
def Obligations.ResetAbandonsWhatIsGoingOn : Prop :=
  ∀ (straps : Straps) (s : State), ∃ t, react (.rst straps) s = .next t ∧
    t.respQ = [] ∧ t.trace = s.trace ∧ lockReq t = false ∧ t.inputs = s.inputs ∧ t.envIdx = s.envIdx ∧
    t.drawIdx = s.drawIdx ∧
    ∃ u, exec .render t = .next u ∧ u.seq = .submit ∧ u.brtSnap = straps.brightness ∧
      u.modeSnap = .static ∧ u.trace = s.trace ++ [.response ⟨.ok, 0#32, true⟩] ∧
      ∀ i : Fin 64, u.frame[i] = 0#24

/-- The invariants of R45 hold right after reset, whatever the straps. -/
def Obligations.ResetMeetsTheInvariant : Prop :=
  ∀ straps : Straps, Inv (State.resetWith straps) ∧ Inv State.reset

/-- The invariants of R45, with the canonical FrameBuffer (log 7) and the pending beats always the rest of one snapshot
(log 5): every step from every state that meets them gives a state that meets them. -/
def Obligations.StepKeepsTheInvariant : Prop :=
  ∀ s t : State, Inv s → step s = .next t → Inv t

/-- Section 1 of `43_sequencer.md` and section 3 of `44_renderer.md`, with the sections 4 and 5 of `60_exceptions.md`.
There is no halt state: a step stops only where the event is a sink answer nobody asked for, which cannot occur (that
the model stops there is the MODEL'S CHOICE, log 4). In every environment that keeps the sink's and the timebase's
duty (the named premises, decision D33, log 13) the sequencer returns to `Wait` from every state after finitely many
steps, the arbiter having no duty. And without an answer the tick stays where it is, with `RENDER` answered `Busy`.
The form of the environment is log 2. -/
def Obligations.TheBlockNeverHalts : Prop :=
  (∀ s : State,
    (eventAllowed (takeEvent s).1 (takeEvent s).2 → ∃ t, step s = .next t) ∧
    (¬ eventAllowed (takeEvent s).1 (takeEvent s).2 → step s = .fault .sinkAnswerUnasked)) ∧
  (∀ (choose : Nat → Event) (s : State), sinkIsFair choose s → timebaseIsFair choose s →
    ∀ k u, runFrom choose k s = some u →
      ∃ j t, k ≤ j ∧ runFrom choose j s = some t ∧ t.seq = .wait) ∧
  (∀ (choose : Nat → Event) (k : Nat) (s : State), s.seq = .submit ∨ s.seq = .refresh →
    sinkIsSilent choose k s → ∃ t, runFrom choose k s = some t ∧ t.seqRegs = s.seqRegs ∧
      exec .render t = .next { t with trace := t.trace ++ [.response ⟨.busy, 0#32, true⟩] }) ∧
  (∀ (w : Word) (s : State), s.respQ = [] → ∃ t, react (.cmd w) s = .next t)
end

