-- ==== Sys2Proof/Laws/Bits.lean ====
section
/-! SUPPORT. Fields of concatenated bit vectors, and the opcode map read both ways. -/

namespace Sys2Proof

/-- The field that stands above `y` in a concatenation is `x`. -/
theorem extract_above {m n : Nat} (x : BitVec m) (y : BitVec n) : (x ++ y).extractLsb' n m = x := by
  refine BitVec.eq_of_getLsbD_eq fun i hi => ?_
  rw [BitVec.getLsbD_extractLsb', BitVec.getLsbD_append]
  simp [hi]

/-- A field that lies inside `y` is the same field of `y`. -/
theorem extract_within {m n : Nat} (x : BitVec m) (y : BitVec n) (start len : Nat)
    (h : start + len ≤ n) : (x ++ y).extractLsb' start len = y.extractLsb' start len := by
  refine BitVec.eq_of_getLsbD_eq fun i hi => ?_
  rw [BitVec.getLsbD_extractLsb', BitVec.getLsbD_append, BitVec.getLsbD_extractLsb']
  simp [show start + i < n by omega]

/-- A field that lies above `y` is the field of `x` that stands there. -/
theorem extract_beyond {m n : Nat} (x : BitVec m) (y : BitVec n) (start len : Nat) :
    (x ++ y).extractLsb' (n + start) len = x.extractLsb' start len := by
  refine BitVec.eq_of_getLsbD_eq fun i hi => ?_
  rw [BitVec.getLsbD_extractLsb', BitVec.getLsbD_append, BitVec.getLsbD_extractLsb']
  simp [show ¬ n + start + i < n by omega, show n + start + i - n = start + i by omega]

/-- The decoder's opcode lookup inverts the opcode map (R80). -/
theorem ofCode_code (op : Opcode) : Opcode.ofCode op.code = some op := by
  cases op <;> decide

/-- A code the lookup finds is that opcode's. -/
theorem code_of_ofCode {c : BitVec 8} {op : Opcode} (h : Opcode.ofCode c = some op) : op.code = c := by
  simpa using List.find?_some h

end Sys2Proof
end

