-- ==== Sys2Proof/Laws/State.lean ====
section
/-! SUPPORT. One lemma per field per named update of the state, so that no proof unfolds an update. -/

namespace Sys2Proof.Machine

variable (s : State) (os : List Output) (rnd : Frame) (straps : Straps)

/-! ### `emit`: only the trace grows -/

@[simp] theorem emit_fb : (s.emit os).fb = s.fb := rfl
@[simp] theorem emit_mode : (s.emit os).mode = s.mode := rfl
@[simp] theorem emit_primary : (s.emit os).primary = s.primary := rfl
@[simp] theorem emit_secondary : (s.emit os).secondary = s.secondary := rfl
@[simp] theorem emit_brightness : (s.emit os).brightness = s.brightness := rfl
@[simp] theorem emit_hueOffset : (s.emit os).hueOffset = s.hueOffset := rfl
@[simp] theorem emit_gradOffset : (s.emit os).gradOffset = s.gradOffset := rfl
@[simp] theorem emit_seq : (s.emit os).seq = s.seq := rfl
@[simp] theorem emit_waitMs : (s.emit os).waitMs = s.waitMs := rfl
@[simp] theorem emit_frame : (s.emit os).frame = s.frame := rfl
@[simp] theorem emit_brtSnap : (s.emit os).brtSnap = s.brtSnap := rfl
@[simp] theorem emit_modeSnap : (s.emit os).modeSnap = s.modeSnap := rfl
@[simp] theorem emit_pixIdx : (s.emit os).pixIdx = s.pixIdx := rfl
@[simp] theorem emit_lockMs : (s.emit os).lockMs = s.lockMs := rfl
@[simp] theorem emit_pixOut : (s.emit os).pixOut = s.pixOut := rfl
@[simp] theorem emit_respQ : (s.emit os).respQ = s.respQ := rfl
@[simp] theorem emit_inputs : (s.emit os).inputs = s.inputs := rfl
@[simp] theorem emit_envIdx : (s.emit os).envIdx = s.envIdx := rfl
@[simp] theorem emit_drawIdx : (s.emit os).drawIdx = s.drawIdx := rfl
@[simp] theorem emit_trace : (s.emit os).trace = s.trace ++ os := rfl

/-! ### `tickStart`: the registers R142 writes -/

@[simp] theorem tickStart_fb : (tickStart rnd s).fb = s.fb := rfl
@[simp] theorem tickStart_mode : (tickStart rnd s).mode = s.mode := rfl
@[simp] theorem tickStart_primary : (tickStart rnd s).primary = s.primary := rfl
@[simp] theorem tickStart_secondary : (tickStart rnd s).secondary = s.secondary := rfl
@[simp] theorem tickStart_brightness : (tickStart rnd s).brightness = s.brightness := rfl
@[simp] theorem tickStart_hueOffset : (tickStart rnd s).hueOffset =
    if s.mode = .rainbow then advanceHue s.hueOffset else s.hueOffset := rfl
@[simp] theorem tickStart_gradOffset : (tickStart rnd s).gradOffset =
    if s.mode = .gradient then advanceGrad s.gradOffset else s.gradOffset := rfl
@[simp] theorem tickStart_seq : (tickStart rnd s).seq = .submit := rfl
@[simp] theorem tickStart_waitMs : (tickStart rnd s).waitMs = 0#9 := rfl
@[simp] theorem tickStart_frame : (tickStart rnd s).frame = tickFrame rnd s := rfl
@[simp] theorem tickStart_brtSnap : (tickStart rnd s).brtSnap = s.brightness := rfl
@[simp] theorem tickStart_modeSnap : (tickStart rnd s).modeSnap = s.mode := rfl
@[simp] theorem tickStart_pixIdx : (tickStart rnd s).pixIdx = 0#6 := rfl
@[simp] theorem tickStart_lockMs : (tickStart rnd s).lockMs = s.lockMs := rfl
@[simp] theorem tickStart_pixOut : (tickStart rnd s).pixOut = s.pixOut := rfl
@[simp] theorem tickStart_respQ : (tickStart rnd s).respQ = s.respQ := rfl
@[simp] theorem tickStart_inputs : (tickStart rnd s).inputs = s.inputs := rfl
@[simp] theorem tickStart_envIdx : (tickStart rnd s).envIdx = s.envIdx := rfl
@[simp] theorem tickStart_drawIdx : (tickStart rnd s).drawIdx = s.drawIdx := rfl
@[simp] theorem tickStart_trace : (tickStart rnd s).trace = s.trace := rfl

/-! ### `startTick`: `tickStart` with the next 64 draws -/

@[simp] theorem startTick_fb : (startTick s).fb = s.fb := rfl
@[simp] theorem startTick_mode : (startTick s).mode = s.mode := rfl
@[simp] theorem startTick_primary : (startTick s).primary = s.primary := rfl
@[simp] theorem startTick_secondary : (startTick s).secondary = s.secondary := rfl
@[simp] theorem startTick_brightness : (startTick s).brightness = s.brightness := rfl
@[simp] theorem startTick_hueOffset : (startTick s).hueOffset =
    if s.mode = .rainbow then advanceHue s.hueOffset else s.hueOffset := rfl
@[simp] theorem startTick_gradOffset : (startTick s).gradOffset =
    if s.mode = .gradient then advanceGrad s.gradOffset else s.gradOffset := rfl
@[simp] theorem startTick_seq : (startTick s).seq = .submit := rfl
@[simp] theorem startTick_waitMs : (startTick s).waitMs = 0#9 := rfl
@[simp] theorem startTick_frame : (startTick s).frame = tickFrame (drawFrame s.drawIdx) s := rfl
@[simp] theorem startTick_brtSnap : (startTick s).brtSnap = s.brightness := rfl
@[simp] theorem startTick_modeSnap : (startTick s).modeSnap = s.mode := rfl
@[simp] theorem startTick_pixIdx : (startTick s).pixIdx = 0#6 := rfl
@[simp] theorem startTick_lockMs : (startTick s).lockMs = s.lockMs := rfl
@[simp] theorem startTick_pixOut : (startTick s).pixOut = s.pixOut := rfl
@[simp] theorem startTick_respQ : (startTick s).respQ = s.respQ := rfl
@[simp] theorem startTick_inputs : (startTick s).inputs = s.inputs := rfl
@[simp] theorem startTick_envIdx : (startTick s).envIdx = s.envIdx := rfl
@[simp] theorem startTick_drawIdx : (startTick s).drawIdx = s.drawIdx + 64 := rfl
@[simp] theorem startTick_trace : (startTick s).trace = s.trace := rfl

/-! ### `endTick`: the registers R168 writes -/

@[simp] theorem endTick_fb : (endTick s).fb = s.fb := rfl
@[simp] theorem endTick_mode : (endTick s).mode = s.mode := rfl
@[simp] theorem endTick_primary : (endTick s).primary = s.primary := rfl
@[simp] theorem endTick_secondary : (endTick s).secondary = s.secondary := rfl
@[simp] theorem endTick_brightness : (endTick s).brightness = s.brightness := rfl
@[simp] theorem endTick_hueOffset : (endTick s).hueOffset = s.hueOffset := rfl
@[simp] theorem endTick_gradOffset : (endTick s).gradOffset = s.gradOffset := rfl
@[simp] theorem endTick_seq : (endTick s).seq = .wait := rfl
@[simp] theorem endTick_waitMs : (endTick s).waitMs = cadenceMs s.modeSnap := rfl
@[simp] theorem endTick_frame : (endTick s).frame = s.frame := rfl
@[simp] theorem endTick_brtSnap : (endTick s).brtSnap = s.brtSnap := rfl
@[simp] theorem endTick_modeSnap : (endTick s).modeSnap = s.modeSnap := rfl
@[simp] theorem endTick_pixIdx : (endTick s).pixIdx = s.pixIdx := rfl
@[simp] theorem endTick_lockMs : (endTick s).lockMs = 0#7 := rfl
@[simp] theorem endTick_pixOut : (endTick s).pixOut = s.pixOut := rfl
@[simp] theorem endTick_respQ : (endTick s).respQ = s.respQ := rfl
@[simp] theorem endTick_inputs : (endTick s).inputs = s.inputs := rfl
@[simp] theorem endTick_envIdx : (endTick s).envIdx = s.envIdx := rfl
@[simp] theorem endTick_drawIdx : (endTick s).drawIdx = s.drawIdx := rfl
@[simp] theorem endTick_trace : (endTick s).trace = s.trace := rfl

/-! ### `resetStep`: the table of R46, the environment untouched -/

@[simp] theorem resetStep_fb : (resetStep straps s).fb = [] := rfl
@[simp] theorem resetStep_mode : (resetStep straps s).mode = .static := rfl
@[simp] theorem resetStep_primary : (resetStep straps s).primary = straps.primary := rfl
@[simp] theorem resetStep_secondary : (resetStep straps s).secondary = straps.secondary := rfl
@[simp] theorem resetStep_brightness : (resetStep straps s).brightness = straps.brightness := rfl
@[simp] theorem resetStep_hueOffset : (resetStep straps s).hueOffset = 0#12 := rfl
@[simp] theorem resetStep_gradOffset : (resetStep straps s).gradOffset = 0#3 := rfl
@[simp] theorem resetStep_seq : (resetStep straps s).seq = .wait := rfl
@[simp] theorem resetStep_waitMs : (resetStep straps s).waitMs = 0#9 := rfl
@[simp] theorem resetStep_frame : (resetStep straps s).frame = (State.resetWith straps).frame := rfl
@[simp] theorem resetStep_brtSnap : (resetStep straps s).brtSnap = 0#8 := rfl
@[simp] theorem resetStep_modeSnap : (resetStep straps s).modeSnap = .static := rfl
@[simp] theorem resetStep_pixIdx : (resetStep straps s).pixIdx = 0#6 := rfl
@[simp] theorem resetStep_lockMs : (resetStep straps s).lockMs = 0#7 := rfl
@[simp] theorem resetStep_pixOut : (resetStep straps s).pixOut = 0#30 := rfl
@[simp] theorem resetStep_respQ : (resetStep straps s).respQ = [] := rfl
@[simp] theorem resetStep_inputs : (resetStep straps s).inputs = s.inputs := rfl
@[simp] theorem resetStep_envIdx : (resetStep straps s).envIdx = s.envIdx := rfl
@[simp] theorem resetStep_drawIdx : (resetStep straps s).drawIdx = s.drawIdx := rfl
@[simp] theorem resetStep_trace : (resetStep straps s).trace = s.trace := rfl

end Sys2Proof.Machine
end

