-- ==== Sys2Proof/Laws/ColorMath.lean ====
section
/-! SUPPORT. The laws of the colour words and functions: the channels of a packed colour, the exact value of each
function with the bound that makes its narrowing exact, and the entries of a frame. -/

namespace Sys2Proof.Machine

/-! ### Packing -/

@[simp] theorem red_rgb (r g b : Byte) : red (rgb r g b) = r :=
  (extract_beyond (r ++ g) b 8 8).trans (extract_above r g)

@[simp] theorem green_rgb (r g b : Byte) : green (rgb r g b) = g :=
  (extract_beyond (r ++ g) b 0 8).trans
    ((extract_within r g 0 8 (by omega)).trans (BitVec.extractLsb'_eq_self))

@[simp] theorem blue_rgb (r g b : Byte) : blue (rgb r g b) = b :=
  (extract_within (r ++ g) b 0 8 (by omega)).trans BitVec.extractLsb'_eq_self

/-- A colour is the packing of its channels. -/
@[simp] theorem rgb_channels (c : Color) : rgb (red c) (green c) (blue c) = c := by
  unfold rgb red green blue
  ext i hi
  simp only [BitVec.getElem_append, BitVec.getElem_extractLsb']
  split
  · simp [← BitVec.getLsbD_eq_getElem]
  · split
    · rw [← BitVec.getLsbD_eq_getElem]
      congr 1
      omega
    · rw [← BitVec.getLsbD_eq_getElem]
      congr 1
      omega

theorem color_ext {c d : Color} (hr : red c = red d) (hg : green c = green d) (hb : blue c = blue d) :
    c = d := by
  rw [← rgb_channels c, ← rgb_channels d, hr, hg, hb]

theorem wireOrder_eq (c : Color) : wireOrder c = rgb (green c) (red c) (blue c) := rfl

/-- The wire triple of a scaled colour leaves as its scaled green, red and blue (R161, R162). -/
theorem pixelOutput_scaled (i : BitVec 6) (c : Color) (br : Byte) :
    pixelOutput i (wireOrder (scaleColor c br))
      = .setPixel i (scale (green c) br) (scale (red c) br) (scale (blue c) br) := by
  change Output.setPixel i (red (wireOrder (scaleColor c br))) (green (wireOrder (scaleColor c br)))
    (blue (wireOrder (scaleColor c br))) = _
  simp [wireOrder_eq, scaleColor]

/-! ### Exact values -/

/-- The product of two bytes divided by 255 is a byte (R100). -/
theorem scale_bound (v b : Byte) : v.toNat * b.toNat / 255 ≤ 255 := by
  have hv : v.toNat ≤ 255 := by have := v.isLt; omega
  have hb : b.toNat ≤ 255 := by have := b.isLt; omega
  have : v.toNat * b.toNat ≤ 255 * 255 := Nat.mul_le_mul hv hb
  omega

theorem scale_toNat (v b : Byte) : (scale v b).toNat = v.toNat * b.toNat / 255 := by
  have := scale_bound v b
  simp only [scale, BitVec.toNat_ofNat]
  omega

/-- `j` is at most 480 (R101). -/
theorem hsvFold_le (h : Nat) : hsvFold h ≤ 480 := by
  simp only [hsvFold]
  split <;> omega

/-- `lo <= mid <= V <= 255` (R101). -/
theorem hsvLo_le_hsvMid (j s v : Nat) (hs : s ≤ 255) : hsvLo s v ≤ hsvMid j s v := by
  have h1 : v * s * (480 - j) ≤ v * s * 480 := Nat.mul_le_mul_left _ (by omega)
  have h2 : v * s ≤ v * 255 := Nat.mul_le_mul_left _ hs
  have h3 : v * (255 - s) + v * s = v * 255 := by rw [← Nat.mul_add]; congr 1; omega
  simp only [hsvLo, hsvMid, Nat.mul_assoc 2]
  omega

theorem hsvMid_le (j s v : Nat) : hsvMid j s v ≤ v := by
  simp only [hsvMid]
  omega

/-- The blend numerator is at most 1785 (R102). -/
theorem blend_bound (x y : Byte) (n : BitVec 3) :
    x.toNat * (7 - n.toNat) + y.toNat * n.toNat ≤ 1785 := by
  have hx : x.toNat ≤ 255 := by have := x.isLt; omega
  have hy : y.toNat ≤ 255 := by have := y.isLt; omega
  have hn : n.toNat ≤ 7 := by have := n.isLt; omega
  have h1 : x.toNat * (7 - n.toNat) ≤ 255 * (7 - n.toNat) := Nat.mul_le_mul_right _ hx
  have h2 : y.toNat * n.toNat ≤ 255 * n.toNat := Nat.mul_le_mul_right _ hy
  omega

theorem blendChannel_toNat (x y : Byte) (n : BitVec 3) :
    (blendChannel x y n).toNat = (x.toNat * (7 - n.toNat) + y.toNat * n.toNat) / 7 := by
  have := blend_bound x y n
  simp only [blendChannel, BitVec.toNat_ofNat]
  omega

/-! ### Frames and phases -/

/-- Entry `i` of a frame built from `f` is `f i`. -/
@[simp] theorem ofFn_getElem (f : Nat → Color) (i : Nat) (hi : i < 64) : (Frame.ofFn f)[i] = f i := by
  simp [Frame.ofFn]

theorem rainbowHue_toNat (off : Hue) (i : Nat) :
    (rainbowHue off i).toNat = (off.toNat + 45 * i) % 2880 := by
  simp only [rainbowHue, BitVec.toNat_ofNat]
  omega

theorem advanceHue_toNat (off : Hue) : (advanceHue off).toNat = (off.toNat + 16) % 2880 := by
  simp only [advanceHue, BitVec.toNat_ofNat]
  omega

theorem advanceGrad_toNat (off : BitVec 3) : (advanceGrad off).toNat = (off.toNat + 1) % 8 := by
  simp only [advanceGrad, BitVec.toNat_ofNat]
  omega

end Sys2Proof.Machine
end

