-- ==== Sys2Proof/Laws/Memory.lean ====
section
/-! SUPPORT. The laws of the FrameBuffer: what a read gives after a write or a fill, and that both keep the
canonical form. -/

namespace Sys2Proof.Machine

/-! ### Reading -/

@[simp] theorem read_nil (i : Nat) : Memory.read [] i = Memory.unlisted := rfl

@[simp] theorem read_cons (j : Nat) (c : Color) (m : Memory) (i : Nat) :
    Memory.read ((j, c) :: m) i = if i = j then c else Memory.read m i := rfl

/-- Erasing a pixel makes it unlisted and leaves the others. -/
theorem read_erase (m : Memory) (i j : Nat) :
    Memory.read (Memory.erase m i) j = if j = i then Memory.unlisted else Memory.read m j := by
  induction m with
  | nil => simp [Memory.erase]
  | cons e m ih =>
    obtain ⟨k, c⟩ := e
    unfold Memory.erase at ih ⊢
    by_cases hk : k = i
    · subst hk
      simp only [List.filter_cons, ne_eq, not_true_eq_false, decide_false, Bool.false_eq_true,
        if_false, ih, read_cons]
      split <;> simp_all
    · simp only [List.filter_cons, ne_eq, hk, not_false_eq_true, decide_true, if_true, read_cons, ih]
      split <;> split <;> simp_all

theorem read_insert (m : Memory) (i : Nat) (c : Color) (hm : ∀ e ∈ m, e.1 ≠ i) (j : Nat) :
    Memory.read (Memory.insert m i c) j = if j = i then c else Memory.read m j := by
  induction m with
  | nil => simp [Memory.insert]
  | cons e m ih =>
    obtain ⟨k, d⟩ := e
    have hk : k ≠ i := hm (k, d) (by simp)
    unfold Memory.insert
    split
    · simp
    · rw [read_cons, read_cons, ih fun e he => hm e (by simp [he])]
      split <;> split <;> simp_all

theorem mem_erase {m : Memory} {i : Nat} {e : Nat × Color} (h : e ∈ Memory.erase m i) :
    e ∈ m ∧ e.1 ≠ i := by
  simpa [Memory.erase] using h

/-- A read after a write: the written pixel holds the colour, every other one reads as before. -/
theorem read_write (m : Memory) (i : Nat) (c : Color) (j : Nat) :
    Memory.read (Memory.write m i c) j = if j = i then c else Memory.read m j := by
  unfold Memory.write
  split
  · rename_i hc
    rw [read_erase, hc]
  · rw [read_insert _ _ _ (fun e he => (mem_erase he).2), read_erase]
    split <;> simp_all

theorem read_fill_upto (n : Nat) (m : Memory) (c : Color) (j : Nat) :
    Memory.read ((List.range n).foldl (fun acc i => Memory.write acc i c) m) j
      = if j < n then c else Memory.read m j := by
  induction n with
  | zero => simp
  | succ n ih =>
    rw [List.range_succ, List.foldl_append, List.foldl_cons, List.foldl_nil, read_write, ih]
    split
    · simp_all
    · split <;> split <;> first | rfl | omega

/-- A read after a fill: all 64 pixels hold the colour. -/
theorem read_fill (m : Memory) (c : Color) (j : Nat) :
    Memory.read (Memory.fill m c) j = if j < 64 then c else Memory.read m j :=
  read_fill_upto 64 m c j

/-! ### Canonical form -/

/-- The canonical form as a statement: in the grid, nothing unlisted listed, indices rising. -/
theorem wf_cons_iff (i : Nat) (c : Color) (m : Memory) :
    Memory.wf ((i, c) :: m) = true ↔
      i < 64 ∧ c ≠ Memory.unlisted ∧ (∀ e ∈ m, i < e.1) ∧ Memory.wf m = true := by
  simp [Memory.wf, and_assoc]

theorem wf_erase (m : Memory) (i : Nat) (h : Memory.wf m = true) :
    Memory.wf (Memory.erase m i) = true := by
  induction m with
  | nil => rfl
  | cons e m ih =>
    obtain ⟨k, c⟩ := e
    obtain ⟨hk, hc, hlt, hm⟩ := (wf_cons_iff k c m).1 h
    by_cases hki : k = i
    · have : Memory.erase ((k, c) :: m) i = Memory.erase m i := by simp [Memory.erase, hki]
      rw [this]
      exact ih hm
    · have : Memory.erase ((k, c) :: m) i = (k, c) :: Memory.erase m i := by
        simp [Memory.erase, hki]
      rw [this, wf_cons_iff]
      exact ⟨hk, hc, fun e he => hlt e (mem_erase he).1, ih hm⟩

theorem mem_insert {m : Memory} {i : Nat} {c : Color} {e : Nat × Color}
    (h : e ∈ Memory.insert m i c) : e = (i, c) ∨ e ∈ m := by
  induction m with
  | nil => simpa [Memory.insert] using h
  | cons d m ih =>
    obtain ⟨k, x⟩ := d
    unfold Memory.insert at h
    split at h
    · simpa using h
    · rcases List.mem_cons.1 h with h | h
      · exact .inr (by simp [h])
      · rcases ih h with h | h
        · exact .inl h
        · exact .inr (by simp [h])

theorem wf_insert (m : Memory) (i : Nat) (c : Color) (hi : i < 64) (hc : c ≠ Memory.unlisted)
    (hne : ∀ e ∈ m, e.1 ≠ i) (h : Memory.wf m = true) :
    Memory.wf (Memory.insert m i c) = true := by
  induction m with
  | nil => simp [Memory.insert, Memory.wf, hi, hc]
  | cons e m ih =>
    obtain ⟨k, d⟩ := e
    obtain ⟨hk, hd, hlt, hm⟩ := (wf_cons_iff k d m).1 h
    have hki : k ≠ i := hne (k, d) (by simp)
    unfold Memory.insert
    split
    · rename_i hik
      refine (wf_cons_iff i c _).2 ⟨hi, hc, fun e he => ?_, h⟩
      rcases List.mem_cons.1 he with he | he
      · simpa [he] using hik
      · exact lt_trans hik (hlt e he)
    · refine (wf_cons_iff k d _).2 ⟨hk, hd, fun e he => ?_, ih (fun e he => hne e (by simp [he])) hm⟩
      rcases mem_insert he with he | he
      · simp only [he]
        omega
      · exact hlt e he

/-- A write in the grid keeps the canonical form. -/
theorem wf_write (m : Memory) (i : Nat) (c : Color) (hi : i < 64) (h : Memory.wf m = true) :
    Memory.wf (Memory.write m i c) = true := by
  unfold Memory.write
  split
  · exact wf_erase m i h
  · exact wf_insert _ i c hi ‹_› (fun e he => (mem_erase he).2) (wf_erase m i h)

theorem wf_fill_upto (n : Nat) (hn : n ≤ 64) (m : Memory) (c : Color) (h : Memory.wf m = true) :
    Memory.wf ((List.range n).foldl (fun acc i => Memory.write acc i c) m) = true := by
  induction n with
  | zero => simpa using h
  | succ n ih =>
    rw [List.range_succ, List.foldl_append, List.foldl_cons, List.foldl_nil]
    exact wf_write _ n c (by omega) (ih (by omega))

/-- A fill keeps the canonical form. -/
theorem wf_fill (m : Memory) (c : Color) (h : Memory.wf m = true) :
    Memory.wf (Memory.fill m c) = true :=
  wf_fill_upto 64 (by omega) m c h

/-- Reset memory is canonical and reads as 0 everywhere. -/
theorem wf_nil : Memory.wf [] = true := rfl

end Sys2Proof.Machine
end

