-- ==== Sys2Proof/Laws/PerInstr.lean ====
section
/-! SUPPORT. A law of every instruction as syntax, one lemma per constructor. -/

namespace Sys2Proof.Laws.OpcodeByte

/-- The top byte of the encoding is the opcode of R80, and the decoder finds the row by it. -/
def Statement (i : Instr) : Prop :=
  (encode i).extractLsb' 56 8 = i.opcode.code ∧ Opcode.ofCode i.opcode.code = some i.opcode

theorem setpix (row col : Byte) (c : Color) : Statement (.setpix row col c) :=
  ⟨extract_above _ _, ofCode_code _⟩

theorem fill (c : Color) : Statement (.fill c) :=
  ⟨extract_above _ _, ofCode_code _⟩

theorem getpix (row col : Byte) : Statement (.getpix row col) :=
  ⟨extract_above _ _, ofCode_code _⟩

theorem getall : Statement (.getall) :=
  ⟨extract_above _ _, ofCode_code _⟩

theorem setmode (val : Byte) : Statement (.setmode val) :=
  ⟨extract_above _ _, ofCode_code _⟩

theorem setpri (c : Color) : Statement (.setpri c) :=
  ⟨extract_above _ _, ofCode_code _⟩

theorem setsec (c : Color) : Statement (.setsec c) :=
  ⟨extract_above _ _, ofCode_code _⟩

theorem setbrt (val : Byte) : Statement (.setbrt val) :=
  ⟨extract_above _ _, ofCode_code _⟩

theorem scale (val brt : Byte) : Statement (.scale val brt) :=
  ⟨extract_above _ _, ofCode_code _⟩

theorem hsv2rgb (h : Hue) (s v : Byte) : Statement (.hsv2rgb h s v) :=
  ⟨extract_above _ _, ofCode_code _⟩

theorem blend (n : BitVec 3) (a b : Color) : Statement (.blend n a b) :=
  ⟨extract_above _ _, ofCode_code _⟩

theorem wireord (c : Color) : Statement (.wireord c) :=
  ⟨extract_above _ _, ofCode_code _⟩

theorem render : Statement (.render) :=
  ⟨extract_above _ _, ofCode_code _⟩

end Sys2Proof.Laws.OpcodeByte
end

