-- ==== Sys2Proof/Laws/Step.lean ====
section
/-! SUPPORT. What a command, an event and a step can do, said once: one lemma per shared operation and one
inversion lemma per transition function, for every later proof to cite. -/

namespace Sys2Proof.Machine

variable {s t : State}

/-! ### Shared operations -/

theorem respond_eq (st : Status) (d : BitVec 32) (s : State) :
    respond st d s = .next (s.emit [.response ⟨st, d, true⟩]) := rfl

theorem raise_eq (st : Status) (s : State) :
    raise st s = .next (s.emit [.response ⟨st, 0#32, true⟩]) := rfl

theorem pixelIndex_of_lt {row col : Byte} (hr : row.toNat < 8) (hc : col.toNat < 8) :
    pixelIndex row col = some (row.toNat * 8 + col.toNat) := by
  simp [pixelIndex, hr, hc]

theorem pixelIndex_of_ge {row col : Byte} (h : 8 ≤ row.toNat ∨ 8 ≤ col.toNat) :
    pixelIndex row col = none := by
  simp [pixelIndex, h]

/-- A pixel index that a coordinate pair has lies in the grid (R51, R55). -/
theorem pixelIndex_lt {row col : Byte} {a : Nat} (h : pixelIndex row col = some a) : a < 64 := by
  unfold pixelIndex at h
  split at h
  · cases h
  · cases h
    omega

/-- A mode code that is accepted is the code of the mode it selects (R24, R81). -/
theorem modeOfCode_code {val : Byte} {m : Mode} (h : modeOfCode val = some m) :
    val.toNat = m.code.toNat := by
  unfold modeOfCode at h
  split at h
  · cases h
    subst val
    rfl
  · split at h
    · cases h
      subst val
      rfl
    · split at h
      · cases h
        subst val
        rfl
      · split at h
        · cases h
          subst val
          rfl
        · split at h
          · cases h
            subst val
            rfl
          · cases h

theorem getallBeats_length (m : Memory) : (getallBeats m).length = 64 := by
  simp [getallBeats]

theorem getallBeats_getElem? (m : Memory) (k : Nat) (hk : k < 64) :
    (getallBeats m)[k]? = some ⟨.ok, pixelData k (Memory.read m k), decide (k = 63)⟩ := by
  simp [getallBeats, hk]

/-! ### What a command can do -/

/-- Every command answers a next state, and this is all it can be: a refusal, which only answers; an answer of a colour
unit or of `GETPIX`, which writes nothing; the one write of the command; the pending beats of `GETALL`; or the start
of a tick. -/
theorem exec_cases (i : Instr) (s : State) :
    (∃ st, st ≠ .ok ∧ st ≠ .invalidChannelValue ∧
      exec i s = .next (s.emit [.response ⟨st, 0#32, true⟩])) ∨
    (∃ d, exec i s = .next (s.emit [.response ⟨.ok, d, true⟩])) ∨
    (∃ row col c a, i = .setpix row col c ∧ pixelIndex row col = some a ∧
      exec i s = .next ({ s with fb := Memory.write s.fb a c }.emit [.response ⟨.ok, 0#32, true⟩])) ∨
    (∃ c, i = .fill c ∧
      exec i s = .next ({ s with fb := Memory.fill s.fb c }.emit [.response ⟨.ok, 0#32, true⟩])) ∨
    (i = .getall ∧ exec i s = .next { s with respQ := s.respQ ++ getallBeats s.fb }) ∨
    (∃ val m, i = .setmode val ∧ modeOfCode val = some m ∧
      exec i s = .next ({ s with mode := m }.emit [.response ⟨.ok, 0#32, true⟩])) ∨
    (∃ c, i = .setpri c ∧
      exec i s = .next ({ s with primary := c }.emit [.response ⟨.ok, 0#32, true⟩])) ∨
    (∃ c, i = .setsec c ∧
      exec i s = .next ({ s with secondary := c }.emit [.response ⟨.ok, 0#32, true⟩])) ∨
    (∃ v, i = .setbrt v ∧
      exec i s = .next ({ s with brightness := v }.emit [.response ⟨.ok, 0#32, true⟩])) ∨
    (i = .render ∧ s.seq = .wait ∧
      exec i s = .next ((startTick s).emit [.response ⟨.ok, 0#32, true⟩])) := by
  cases i with
  | setpix row col c =>
    cases h : pixelIndex row col with
    | none => exact .inl ⟨.outOfRange, by decide, by decide, by simp [exec, execSetpix, h, raise_eq]⟩
    | some a =>
      refine .inr (.inr (.inl ⟨row, col, c, a, rfl, h, ?_⟩))
      simp [exec, execSetpix, h, respond_eq]
  | fill c => exact .inr (.inr (.inr (.inl ⟨c, rfl, rfl⟩)))
  | getpix row col =>
    cases h : pixelIndex row col with
    | none => exact .inl ⟨.outOfRange, by decide, by decide, by simp [exec, execGetpix, h, raise_eq]⟩
    | some a => exact .inr (.inl ⟨colorData (Memory.read s.fb a), by simp [exec, execGetpix, h, respond_eq]⟩)
  | getall => exact .inr (.inr (.inr (.inr (.inl ⟨rfl, rfl⟩))))
  | setmode val =>
    cases h : modeOfCode val with
    | none => exact .inl ⟨.unknownMode, by decide, by decide, by simp [exec, execSetmode, h, raise_eq]⟩
    | some m =>
      refine .inr (.inr (.inr (.inr (.inr (.inl ⟨val, m, rfl, h, ?_⟩)))))
      simp [exec, execSetmode, h, respond_eq]
  | setpri c => exact .inr (.inr (.inr (.inr (.inr (.inr (.inl ⟨c, rfl, rfl⟩))))))
  | setsec c => exact .inr (.inr (.inr (.inr (.inr (.inr (.inr (.inl ⟨c, rfl, rfl⟩)))))))
  | setbrt v => exact .inr (.inr (.inr (.inr (.inr (.inr (.inr (.inr (.inl ⟨v, rfl, rfl⟩))))))))
  | scale v b => exact .inr (.inl ⟨byteData (scale v b), rfl⟩)
  | hsv2rgb h sat v =>
    by_cases hh : hueLegal h = true
    · exact .inr (.inl ⟨colorData (hsvToRgb h sat v), by simp [exec, execHsv2rgb, hh, respond_eq]⟩)
    · exact .inl ⟨.domainError, by decide, by decide, by simp [exec, execHsv2rgb, hh, raise_eq]⟩
  | blend n a b => exact .inr (.inl ⟨colorData (blend a b n), rfl⟩)
  | wireord c => exact .inr (.inl ⟨colorData (wireOrder c), rfl⟩)
  | render =>
    by_cases hw : s.seq = .wait
    · refine .inr (.inr (.inr (.inr (.inr (.inr (.inr (.inr (.inr ⟨rfl, hw, ?_⟩))))))))
      simp [exec, execRender, hw, respond_eq]
    · exact .inl ⟨.busy, by decide, by decide, by simp [exec, execRender, hw, raise_eq]⟩

/-! ### What an event can do -/

/-- The `MS` step: idle, a count, the start of a tick or the timeout of a lock wait (R141, R152, R166). -/
theorem msStep_cases (s : State) :
    ((s.seq = .submit ∨ s.seq = .refresh) ∧ msStep s = s) ∨
    (s.seq = .wait ∧ s.waitMs.toNat ≤ 1 ∧ msStep s = startTick s) ∨
    (s.seq = .wait ∧ 1 < s.waitMs.toNat ∧ msStep s = { s with waitMs := s.waitMs - 1#9 }) ∨
    (s.seq = .lockWait ∧ s.lockMs.toNat < 99 ∧ msStep s = { s with lockMs := s.lockMs + 1#7 }) ∨
    (s.seq = .lockWait ∧ 99 ≤ s.lockMs.toNat ∧
      msStep s = endTick (s.emit [.diag .hardwareRefreshTimeout 0#6])) := by
  cases h : s.seq with
  | wait =>
    by_cases hw : s.waitMs.toNat ≤ 1
    · exact .inr (.inl ⟨rfl, hw, by simp [msStep, h, msInWait, hw]⟩)
    · exact .inr (.inr (.inl ⟨rfl, by omega, by simp [msStep, h, msInWait, hw]⟩))
  | submit => exact .inl ⟨.inl rfl, by simp [msStep, h]⟩
  | lockWait =>
    by_cases hl : s.lockMs.toNat < 99
    · exact .inr (.inr (.inr (.inl ⟨rfl, hl, by simp [msStep, h, msInLockWait, hl]⟩)))
    · exact .inr (.inr (.inr (.inr ⟨rfl, by omega, by simp [msStep, h, msInLockWait, hl]⟩)))
  | refresh => exact .inl ⟨.inr rfl, by simp [msStep, h]⟩

/-- The `GRANT` step: the refresh, or nothing (R165, R169). -/
theorem grantStep_cases (s : State) :
    (s.seq = .lockWait ∧ grantStep s = { s with seq := .refresh }.emit [.refresh]) ∨
    (s.seq ≠ .lockWait ∧ grantStep s = s) := by
  cases h : s.seq with
  | wait => exact .inr ⟨by simp, by simp [grantStep, h]⟩
  | submit => exact .inr ⟨by simp, by simp [grantStep, h]⟩
  | lockWait => exact .inl ⟨rfl, by simp [grantStep, h]⟩
  | refresh => exact .inr ⟨by simp, by simp [grantStep, h]⟩

/-- A simultaneous grant and pulse are the two steps in one order or the other; at the 100th pulse of a lock wait the
grant comes first (R191). -/
theorem grantWithMsStep_cases (g : Bool) (s : State) :
    grantWithMsStep g s = msStep (grantStep s) ∨
    (grantWithMsStep g s = grantStep (msStep s) ∧ ¬ (s.seq = .lockWait ∧ 99 ≤ s.lockMs.toNat)) := by
  unfold grantWithMsStep
  split
  · exact .inl rfl
  · rename_i h
    exact .inr ⟨rfl, by simp_all⟩

/-- The `SUBMIT` step, the pixel output in its scaled and reordered form (R161, R162). -/
theorem submitStep_eq (res : SinkAnswer) (s : State) :
    submitStep res s =
      let out := { s with pixOut := s.pixIdx ++ currentPixel s }.emit
        (wirePixel s.frame s.brtSnap s.pixIdx :: answerDiag res .sinkPixelError s.pixIdx)
      if s.pixIdx.toNat < 63 then { out with pixIdx := s.pixIdx + 1#6 }
      else { out with lockMs := 0#7, seq := .lockWait } := by
  simp only [submitStep, currentPixel, pixelOutput_scaled, wirePixel]

theorem deliverBeat_nil (h : s.respQ = []) : deliverBeat s = s := by
  simp [deliverBeat, h]

theorem deliverBeat_cons {b : Beat} {q : List Beat} (h : s.respQ = b :: q) :
    deliverBeat s = { s with respQ := q }.emit [.response b] := by
  simp [deliverBeat, h]

/-- An accepted word answers a next state: `IllegalCommand`, or what its command does. -/
theorem acceptWord_cases (w : Word) (s : State) :
    (∃ e, decode w = .error e ∧
      acceptWord w s = .next (s.emit [.response ⟨.illegalCommand, 0#32, true⟩])) ∨
    (∃ i, decode w = .ok i ∧ acceptWord w s = exec i s) := by
  unfold acceptWord
  cases h : decode w with
  | error e => exact .inl ⟨e, rfl, rfl⟩
  | ok i => exact .inr ⟨i, rfl, rfl⟩

/-- All an event can do when it answers a next state. -/
theorem react_cases {e : Event} (h : react e s = .next t) :
    (∃ straps, e = .rst straps ∧ t = resetStep straps s) ∨
    (∃ w, e = .cmd w ∧ s.respQ = [] ∧ acceptWord w s = .next t) ∨
    (∃ w b q, e = .cmd w ∧ s.respQ = b :: q ∧ t = { deliverBeat s with inputs := .cmd w :: s.inputs }) ∨
    (e = .takeBeat ∧ t = deliverBeat s) ∨
    (e = .ms ∧ t = msStep s) ∨
    (∃ res, e = .submit res ∧ s.seq = .submit ∧ t = submitStep res s) ∨
    (e = .grant ∧ t = grantStep s) ∨
    (∃ res, e = .refresh res ∧ s.seq = .refresh ∧ t = refreshStep res s) ∨
    (∃ g, e = .grantWithMs g ∧ t = grantWithMsStep g s) := by
  cases e with
  | rst straps =>
    cases h
    exact .inl ⟨straps, rfl, rfl⟩
  | cmd w =>
    cases hq : s.respQ with
    | nil => exact .inr (.inl ⟨w, rfl, rfl, by simpa [react, commandStep, hq] using h⟩)
    | cons b q =>
      refine .inr (.inr (.inl ⟨w, b, q, rfl, rfl, ?_⟩))
      simpa [react, commandStep, hq] using h.symm
  | takeBeat =>
    cases h
    exact .inr (.inr (.inr (.inl ⟨rfl, rfl⟩)))
  | ms =>
    cases h
    exact .inr (.inr (.inr (.inr (.inl ⟨rfl, rfl⟩))))
  | submit res =>
    by_cases hs : s.seq = .submit
    · refine .inr (.inr (.inr (.inr (.inr (.inl ⟨res, rfl, hs, ?_⟩)))))
      simpa [react, submitEvent, hs] using h.symm
    · simp [react, submitEvent, hs] at h
  | grant =>
    cases h
    exact .inr (.inr (.inr (.inr (.inr (.inr (.inl ⟨rfl, rfl⟩))))))
  | refresh res =>
    by_cases hs : s.seq = .refresh
    · refine .inr (.inr (.inr (.inr (.inr (.inr (.inr (.inl ⟨res, rfl, hs, ?_⟩)))))))
      simpa [react, refreshEvent, hs] using h.symm
    · simp [react, refreshEvent, hs] at h
  | grantWithMs g =>
    cases h
    exact .inr (.inr (.inr (.inr (.inr (.inr (.inr (.inr ⟨g, rfl, rfl⟩)))))))

/-! ### What an event can do to the sequencer during a tick -/

/-- A word accepted during a tick leaves the sequencer alone (R60, R150). -/
theorem acceptWord_seqRegs {w : Word} (hs : s.seq ≠ .wait) (h : acceptWord w s = .next t) :
    t.seqRegs = s.seqRegs := by
  rcases acceptWord_cases w s with ⟨_, _, h'⟩ | ⟨i, _, h'⟩ <;> rw [h'] at h
  · cases h
    rfl
  · rcases exec_cases i s with ⟨_, _, _, h'⟩ | ⟨_, h'⟩ | ⟨_, _, _, _, _, _, h'⟩ | ⟨_, _, h'⟩ | ⟨_, h'⟩ |
      ⟨_, _, _, _, h'⟩ | ⟨_, _, h'⟩ | ⟨_, _, h'⟩ | ⟨_, _, h'⟩ | ⟨_, hw, _⟩
    case inr.inr.inr.inr.inr.inr.inr.inr.inr => exact absurd hw hs
    all_goals
      rw [h'] at h
      cases h
      rfl

@[simp] theorem deliverBeat_seqRegs (s : State) : (deliverBeat s).seqRegs = s.seqRegs := by
  unfold deliverBeat
  split <;> rfl

/-- In `Submit` only a `SUBMIT` or a `RESET` moves the sequencer (R140, R152, R161). -/
theorem react_in_submit {e : Event} (hs : s.seq = .submit) (h : react e s = .next t) :
    (∃ straps, e = .rst straps ∧ t = resetStep straps s) ∨
    (∃ res, e = .submit res ∧ t = submitStep res s) ∨
    (notReset e ∧ (∀ res, e ≠ .submit res) ∧ t.seqRegs = s.seqRegs) := by
  rcases react_cases h with ⟨straps, rfl, rfl⟩ | ⟨w, rfl, _, h⟩ | ⟨w, b, q, rfl, _, rfl⟩ | ⟨rfl, rfl⟩ |
    ⟨rfl, rfl⟩ | ⟨res, rfl, _, rfl⟩ | ⟨rfl, rfl⟩ | ⟨res, rfl, hr, _⟩ | ⟨g, rfl, rfl⟩
  · exact .inl ⟨straps, rfl, rfl⟩
  · exact .inr (.inr ⟨by simp [notReset], by simp, acceptWord_seqRegs (by simp [hs]) h⟩)
  · exact .inr (.inr ⟨by simp [notReset], by simp, deliverBeat_seqRegs s⟩)
  · exact .inr (.inr ⟨by simp [notReset], by simp, deliverBeat_seqRegs s⟩)
  · exact .inr (.inr ⟨by simp [notReset], by simp, by simp [msStep, hs]⟩)
  · exact .inr (.inl ⟨res, rfl, rfl⟩)
  · exact .inr (.inr ⟨by simp [notReset], by simp, by simp [grantStep, hs]⟩)
  · simp [hs] at hr
  · exact .inr (.inr ⟨by simp [notReset], by simp, by simp [grantWithMsStep, grantStep, msStep, hs]⟩)

/-- In `Refresh` only a `REFRESH` or a `RESET` moves the sequencer (R140, R152, R167). -/
theorem react_in_refresh {e : Event} (hs : s.seq = .refresh) (h : react e s = .next t) :
    (∃ straps, e = .rst straps ∧ t = resetStep straps s) ∨
    (∃ res, e = .refresh res ∧ t = refreshStep res s) ∨
    (notReset e ∧ (∀ res, e ≠ .refresh res) ∧ t.seqRegs = s.seqRegs) := by
  rcases react_cases h with ⟨straps, rfl, rfl⟩ | ⟨w, rfl, _, h⟩ | ⟨w, b, q, rfl, _, rfl⟩ | ⟨rfl, rfl⟩ |
    ⟨rfl, rfl⟩ | ⟨res, rfl, hr, _⟩ | ⟨rfl, rfl⟩ | ⟨res, rfl, _, rfl⟩ | ⟨g, rfl, rfl⟩
  · exact .inl ⟨straps, rfl, rfl⟩
  · exact .inr (.inr ⟨by simp [notReset], by simp, acceptWord_seqRegs (by simp [hs]) h⟩)
  · exact .inr (.inr ⟨by simp [notReset], by simp, deliverBeat_seqRegs s⟩)
  · exact .inr (.inr ⟨by simp [notReset], by simp, deliverBeat_seqRegs s⟩)
  · exact .inr (.inr ⟨by simp [notReset], by simp, by simp [msStep, hs]⟩)
  · simp [hs] at hr
  · exact .inr (.inr ⟨by simp [notReset], by simp, by simp [grantStep, hs]⟩)
  · exact .inr (.inl ⟨res, rfl, rfl⟩)
  · exact .inr (.inr ⟨by simp [notReset], by simp, by simp [grantWithMsStep, grantStep, msStep, hs]⟩)

/-- In `LockWait` a grant leads to `Refresh`, a `RESET` to `Wait`, and a pulse counts or ends the tick (R140, R165,
R166, R191). -/
theorem react_in_lockWait {e : Event} (hs : s.seq = .lockWait) (h : react e s = .next t) :
    (∃ straps, e = .rst straps ∧ t = resetStep straps s) ∨
    (((∃ g, e = .grantWithMs g) ∨ e = .grant) ∧ t.seq = .refresh) ∨
    (e = .ms ∧ t = msInLockWait s) ∨
    (notReset e ∧ e ≠ .ms ∧ (∀ g, e ≠ .grantWithMs g) ∧ t.seqRegs = s.seqRegs) := by
  rcases react_cases h with ⟨straps, rfl, rfl⟩ | ⟨w, rfl, _, h⟩ | ⟨w, b, q, rfl, _, rfl⟩ | ⟨rfl, rfl⟩ |
    ⟨rfl, rfl⟩ | ⟨res, rfl, hr, _⟩ | ⟨rfl, rfl⟩ | ⟨res, rfl, hr, _⟩ | ⟨g, rfl, rfl⟩
  · exact .inl ⟨straps, rfl, rfl⟩
  · exact .inr (.inr (.inr ⟨by simp [notReset], by simp, by simp, acceptWord_seqRegs (by simp [hs]) h⟩))
  · exact .inr (.inr (.inr ⟨by simp [notReset], by simp, by simp, deliverBeat_seqRegs s⟩))
  · exact .inr (.inr (.inr ⟨by simp [notReset], by simp, by simp, deliverBeat_seqRegs s⟩))
  · exact .inr (.inr (.inl ⟨rfl, by simp [msStep, hs]⟩))
  · simp [hs] at hr
  · exact .inr (.inl ⟨.inr rfl, by simp [grantStep, hs]⟩)
  · simp [hs] at hr
  · refine .inr (.inl ⟨.inl ⟨g, rfl⟩, ?_⟩)
    by_cases hl : s.lockMs.toNat < 99
    · cases g <;>
        simp [grantWithMsStep, grantStep, msStep, msInLockWait, hs, hl, show ¬ 99 ≤ s.lockMs.toNat by omega]
    · simp [grantWithMsStep, grantStep, msStep, hs, show 99 ≤ s.lockMs.toNat by omega]

/-! ### What a step can do -/

theorem takeFrom_cons {choose : Nat → Event} {e : Event} {rest : List Event} (h : s.inputs = e :: rest) :
    takeFrom choose s = (e, { s with inputs := rest }) := by
  simp [takeFrom, h]

theorem takeFrom_nil {choose : Nat → Event} (h : s.inputs = []) :
    takeFrom choose s = (choose s.envIdx, { s with envIdx := s.envIdx + 1 }) := by
  simp [takeFrom, h]

theorem takeEvent_cons {e : Event} {rest : List Event} (h : s.inputs = e :: rest) :
    takeEvent s = (e, { s with inputs := rest }) := takeFrom_cons h

theorem takeEvent_nil (h : s.inputs = []) :
    takeEvent s = (Config.envEvent s.envIdx, { s with envIdx := s.envIdx + 1 }) := takeFrom_nil h

/-- Taking an event touches the queue and the choice counter only: the event is the queue's head, or a free choice. -/
theorem takeEvent_cases (s : State) :
    (∃ e rest, s.inputs = e :: rest ∧ takeEvent s = (e, { s with inputs := rest })) ∨
    (s.inputs = [] ∧ takeEvent s = (Config.envEvent s.envIdx, { s with envIdx := s.envIdx + 1 })) := by
  cases h : s.inputs with
  | nil => exact .inr ⟨rfl, (takeEvent_nil h).trans (by rw [h])⟩
  | cons e rest => exact .inl ⟨e, rest, rfl, takeEvent_cons h⟩

/-- A step in any environment is its event's reaction on a state that agrees with it on everything but the queue and
the counter. -/
theorem stepFrom_eq_react (choose : Nat → Event) (s : State) :
    ∃ inputs envIdx, (takeFrom choose s).2 = { s with inputs := inputs, envIdx := envIdx } ∧
      stepFrom choose s = react (eventFrom choose s) { s with inputs := inputs, envIdx := envIdx } := by
  cases h : s.inputs with
  | nil => exact ⟨[], s.envIdx + 1, by rw [takeFrom_nil h, h], by rw [stepFrom, eventFrom, takeFrom_nil h, h]⟩
  | cons e rest => exact ⟨rest, s.envIdx, by rw [takeFrom_cons h], by rw [stepFrom, eventFrom, takeFrom_cons h]⟩

/-- A step is its event's reaction on a state that agrees with it on everything but the queue and the counter. -/
theorem step_eq_react (s : State) :
    ∃ inputs envIdx, (takeEvent s).2 = { s with inputs := inputs, envIdx := envIdx } ∧
      step s = react (takeEvent s).1 { s with inputs := inputs, envIdx := envIdx } :=
  stepFrom_eq_react Config.envEvent s

theorem runFrom_succ_of_step {choose : Nat → Event} {k : Nat} (h : stepFrom choose s = .next t) :
    runFrom choose (k + 1) s = runFrom choose k t := by
  simp only [runFrom, h]

/-- The step after `k` steps: runs are extended at their end too. -/
theorem runFrom_succ_end {choose : Nat → Event} {k : Nat} {u : State} (h : runFrom choose k s = some u) :
    runFrom choose (k + 1) s = runFrom choose 1 u := by
  induction k generalizing s with
  | zero =>
    cases h
    rfl
  | succ k ih =>
    cases hs : stepFrom choose s with
    | next t =>
      rw [runFrom_succ_of_step hs] at h ⊢
      exact ih h
    | fault f => simp [runFrom, hs] at h
    | refused r => simp [runFrom, hs] at h

theorem step_cons {e : Event} {rest : List Event} (h : s.inputs = e :: rest) :
    step s = react e { s with inputs := rest } := by
  rw [step, stepFrom, takeFrom_cons h]

theorem step_nil (h : s.inputs = []) :
    step s = react (Config.envEvent s.envIdx) { s with envIdx := s.envIdx + 1 } := by
  rw [step, stepFrom, takeFrom_nil h]

theorem stepN_succ (k : Nat) (s : State) :
    stepN (k + 1) s = match step s with
      | .next t => stepN k t
      | .fault _ => none
      | .refused _ => none := rfl

theorem stepN_succ_of_step {k : Nat} (h : step s = .next t) : stepN (k + 1) s = stepN k t := by
  rw [stepN_succ, h]

end Sys2Proof.Machine
end

