-- ==== Sys2Proof/Tests/Slice0.lean ====
section
/-! SUPPORT. Tests of one step each, with results taken from the spec (each names its source), and for every
obligation with hypotheses a witness that they can be met together. -/

namespace Sys2Proof.Tests

open Sys2Proof Sys2Proof.Machine

/-! ### Helpers -/

/-- The reset state with `fb`, `mode` and the sequencer's position replaced. -/
def st (fb : Memory := []) (mode : Mode := .static) (seq : Seq := .wait) : State :=
  { State.reset with fb := fb, mode := mode, seq := seq }

/-- The block's answer to a word presented to `s`, through the fetch of the host's interface. -/
def run (w : Nat) (s : State) : State :=
  match step (s.withFetchWord 64 w) with
  | .next t => t
  | .fault _ => s
  | .refused _ => s

/-- The one response beat of a step that starts with an empty trace. -/
def reply (s : State) : Option (Status × BitVec 32 × Bool) :=
  match s.trace with
  | [.response b] => some (b.status, b.data, b.last)
  | _ => none

/-! ### Well-formedness: every check refuses an ill-formed term -/

theorem test_wellFormed_setpix_row : Instr.wellFormed (.setpix 8#8 0#8 0#24) = false := by decide
theorem test_wellFormed_setpix_col : Instr.wellFormed (.setpix 0#8 8#8 0#24) = false := by decide
theorem test_wellFormed_getpix_row : Instr.wellFormed (.getpix 255#8 0#8) = false := by decide
theorem test_wellFormed_getpix_col : Instr.wellFormed (.getpix 7#8 8#8) = false := by decide
theorem test_wellFormed_setmode : Instr.wellFormed (.setmode 5#8) = false := by decide
theorem test_wellFormed_hsv2rgb : Instr.wellFormed (.hsv2rgb 2880#12 0#8 0#8) = false := by decide
theorem test_wellFormed_boundaries :
    Instr.wellFormed (.setpix 7#8 7#8 0#24) = true ∧ Instr.wellFormed (.getpix 7#8 0#8) = true ∧
    Instr.wellFormed (.setmode 4#8) = true ∧ Instr.wellFormed (.hsv2rgb 2879#12 0#8 0#8) = true := by
  decide

/-! ### Decoding: one word per constructor, its fields written out as R71 and R80 lay them out; the hexadecimal
words are those of R86 -/

theorem test_decode_setpix : decode (0x01#8 ++ 2#8 ++ 5#8 ++ 0x10#8 ++ 0xFF#8 ++ 0x80#8 ++ 0#16)
    = .ok (.setpix 2#8 5#8 0x10FF80#24) := by decide
theorem test_decode_fill : decode (0x02#8 ++ 0#16 ++ 0xFF#8 ++ 0x00#8 ++ 0x00#8 ++ 0#16)
    = .ok (.fill 0xFF0000#24) := by decide
theorem test_decode_getpix : decode (0x03#8 ++ 7#8 ++ 7#8 ++ 0#40) = .ok (.getpix 7#8 7#8) := by decide
theorem test_decode_getall : decode (0x04#8 ++ 0#56) = .ok .getall := by decide
theorem test_decode_setmode : decode (0x10#8 ++ 1#8 ++ 0#48) = .ok (.setmode 1#8) := by decide
theorem test_decode_setpri : decode (0x11#8 ++ 0#16 ++ 0xFF#8 ++ 0x80#8 ++ 0x00#8 ++ 0#16)
    = .ok (.setpri 0xFF8000#24) := by decide
theorem test_decode_setsec : decode (0x12#8 ++ 0#16 ++ 0x00#8 ++ 0x40#8 ++ 0xFF#8 ++ 0#16)
    = .ok (.setsec 0x0040FF#24) := by decide
theorem test_decode_setbrt : decode (0x13#8 ++ 128#8 ++ 0#48) = .ok (.setbrt 128#8) := by decide
theorem test_decode_scale : decode (0x20#8 ++ 100#8 ++ 200#8 ++ 0#40) = .ok (.scale 100#8 200#8) := by
  decide
theorem test_decode_hsv2rgb : decode (0x21#8 ++ 0#4 ++ 0x3#4 ++ 0xC0#8 ++ 200#8 ++ 100#8 ++ 0#24)
    = .ok (.hsv2rgb 960#12 200#8 100#8) := by decide
theorem test_decode_blend :
    decode (0x22#8 ++ 0#5 ++ 3#3 ++ 0xFF#8 ++ 0x01#8 ++ 0x02#8 ++ 0x03#8 ++ 0x04#8 ++ 0xFE#8)
      = .ok (.blend 3#3 0xFF0102#24 0x0304FE#24) := by decide
theorem test_decode_wireord : decode (0x23#8 ++ 0#16 ++ 0x11#8 ++ 0x22#8 ++ 0x33#8 ++ 0#16)
    = .ok (.wireord 0x112233#24) := by decide
theorem test_decode_render : decode (0x30#8 ++ 0#56) = .ok .render := by decide

/-- R86's words, encoded. -/
theorem test_encode :
    encode (.setpix 2#8 5#8 0x10FF80#24) = 0x01020510FF800000#64 ∧
    encode (.setsec 0x0040FF#24) = 0x1200000040FF0000#64 ∧
    encode (.hsv2rgb 960#12 255#8 255#8) = 0x2103C0FFFF000000#64 ∧
    encode (.blend 3#3 0xFF0000#24 0x0000FF#24) = 0x2203FF00000000FF#64 ∧
    encode .render = 0x3000000000000000#64 := by decide

/-- R82: unknown opcodes, among them `0x00` and `0xFF`. -/
theorem test_decode_unknown_opcode :
    decode 0#64 = .error .unknownOpcode ∧ decode 0xFF00000000000000#64 = .error .unknownOpcode ∧
    decode 0x0500000000000000#64 = .error .unknownOpcode ∧
    decode 0x3100000000000000#64 = .error .unknownOpcode := by decide

/-- R82, R190: a `ZERO` bit set is illegal, also beside an operand out of range. -/
theorem test_decode_zero_bit :
    decode 0x0400000000000001#64 = .error .zeroBitSet ∧
    decode 0x2210000000000000#64 = .error .zeroBitSet ∧
    decode 0x0108000000000001#64 = .error .zeroBitSet ∧
    decode 0x2110000000000000#64 = .error .zeroBitSet := by decide

theorem test_decodeTableWord :
    decodeTableWord 64 0x3000000000000000 = some .render ∧
    decodeTableWord 64 0x01020510FF800000 = some (.setpix 2#8 5#8 0x10FF80#24) ∧
    decodeTableWord 64 0 = none := by decide

/-! ### One step per command -/

/-- R120's example: from a zeroed FrameBuffer, `FB[21] = 0x10FF80`, all other pixels 0. -/
theorem test_setpix : (run 0x01020510FF800000 State.reset).fb = [(21, 0x10FF80#24)] ∧
    reply (run 0x01020510FF800000 State.reset) = some (.ok, 0#32, true) := by decide

/-- S9: `SetPixel(8,0,color)` fails and the FrameBuffer is unchanged. -/
theorem test_setpix_outOfRange :
    (run 0x010800FFFFFF0000 (st [(5, 1#24)])).fb = [(5, 1#24)] ∧
    reply (run 0x010800FFFFFF0000 (st [(5, 1#24)])) = some (.outOfRange, 0#32, true) := by decide

/-- R121's example, at the first and the last pixel and past it. -/
theorem test_fill : ∃ t, exec (.fill 0xFF0000#24) State.reset = .next t ∧
    Memory.read t.fb 0 = 0xFF0000#24 ∧ Memory.read t.fb 63 = 0xFF0000#24 ∧ Memory.read t.fb 64 = 0#24 :=
  ⟨_, rfl, by simp [read_fill], by simp [read_fill],
    by simp [read_fill, State.reset, State.resetWith, Memory.unlisted]⟩

/-- A fill with the colour of an unlisted pixel leaves nothing listed (log 7). -/
theorem test_fill_black : (run 0x0200000000000000 (st [(5, 1#24), (63, 2#24)])).fb = [] := by decide

/-- R122's example. -/
theorem test_getpix :
    reply (run 0x0302050000000000 (st [(21, 0x10FF80#24)])) = some (.ok, 0x0010FF80#32, true) := by decide

/-- R123's example: beats 0, 21 and 63. -/
theorem test_getall :
    (run 0x0400000000000000 (st [(21, 0x10FF80#24)])).respQ[0]? = some ⟨.ok, 0#32, false⟩ ∧
    (run 0x0400000000000000 (st [(21, 0x10FF80#24)])).respQ[21]? = some ⟨.ok, 0x1510FF80#32, false⟩ ∧
    (run 0x0400000000000000 (st [(21, 0x10FF80#24)])).respQ[63]? = some ⟨.ok, 0x3F000000#32, true⟩ := by
  decide

/-- R130's example. -/
theorem test_setmode : (run 0x1001000000000000 State.reset).mode = .rainbow := by decide

/-- S10: an unrecognised mode leaves the mode. -/
theorem test_setmode_unknown : (run 0x10FF000000000000 (st [] .rainbow)).mode = .rainbow ∧
    reply (run 0x10FF000000000000 (st [] .rainbow)) = some (.unknownMode, 0#32, true) := by decide

/-- R131's example; the secondary colour stays. -/
theorem test_setpri : (run 0x110000FF80000000 State.reset).primary = 0xFF8000#24 ∧
    (run 0x110000FF80000000 State.reset).secondary = State.reset.secondary := by decide

/-- R132's example; the primary colour stays. -/
theorem test_setsec : (run 0x1200000040FF0000 State.reset).secondary = 0x0040FF#24 ∧
    (run 0x1200000040FF0000 State.reset).primary = State.reset.primary := by decide

/-- R133's example; the snapshot stays. -/
theorem test_setbrt : (run 0x1380000000000000 State.reset).brightness = 128#8 ∧
    (run 0x1380000000000000 State.reset).brtSnap = 0#8 := by decide

/-- R104's example and S6. -/
theorem test_scale : reply (run 0x2080800000000000 State.reset) = some (.ok, 0x40#32, true) := by decide

/-- Vectors A10, A11: the floor. -/
theorem test_scale_floor : scale 1#8 254#8 = 0#8 ∧ scale 254#8 254#8 = 253#8 := by decide

/-- Vectors H11 (a tie, up) and G9 (125 degrees). -/
theorem test_hsv2rgb : reply (run 0x2102D0FFFF000000 State.reset) = some (.ok, 0x0080FF00#32, true) ∧
    reply (run 0x2103E8C864000000 State.reset) = some (.ok, 0x0016641C#32, true) := by decide

/-- Vector G12: 360 degrees is outside the domain. -/
theorem test_hsv2rgb_domain :
    reply (run 0x210B40FFFF000000 State.reset) = some (.domainError, 0#32, true) := by decide

/-- R106's example. -/
theorem test_blend : reply (run 0x2203FF00000000FF State.reset) = some (.ok, 0x0091006D#32, true) := by
  decide

/-- R106: the result is truncated. -/
theorem test_blend_truncates : blendChannel 0#8 6#8 1#3 = 0#8 ∧ blendChannel 0#8 7#8 1#3 = 1#8 := by decide

/-- R107's example. -/
theorem test_wireord : reply (run 0x2300001122330000 State.reset) = some (.ok, 0x00221133#32, true) := by
  decide

/-- R150's example: in the reset state a tick starts; the second `RENDER` is `Busy`. -/
theorem test_render : (run 0x3000000000000000 State.reset).seq = .submit ∧
    (run 0x3000000000000000 State.reset).pixIdx = 0#6 ∧
    reply (run 0x3000000000000000 State.reset) = some (.ok, 0#32, true) := by decide

theorem test_render_busy :
    reply (run 0x3000000000000000 (st [] .static .submit)) = some (.busy, 0#32, true) ∧
    (run 0x3000000000000000 (st [] .static .submit)).seq = .submit := by decide

/-- R187: an illegal word is answered and changes nothing. -/
theorem test_illegal : reply (run 0x0100000000000001 State.reset) = some (.illegalCommand, 0#32, true) ∧
    (run 0x0100000000000001 State.reset).fb = [] := by decide

/-! ### One step per event of the sequencer and the renderer -/

/-- R212: the first `MS` step after reset starts a Static tick over the zeroed FrameBuffer. -/
theorem test_first_ms : (msStep State.reset).seq = .submit ∧ (msStep State.reset).frame[63] = 0#24 := by
  decide

/-- R144 with vector H3: pixel 1 of a Rainbow frame at offset 0 is (255,24,0), pixel 63 is vector H21; the offset
advances by 16. -/
theorem test_rainbow_tick : (msStep (st [] .rainbow)).frame[1] = 0xFF1800#24 ∧
    (msStep (st [] .rainbow)).frame[63] = 0xFF0018#24 ∧
    (msStep (st [] .rainbow)).hueOffset = 16#12 := by decide

/-- R145: pixel (0,1) is secondary, pixel (1,1) is primary. -/
theorem test_checkerboard_tick :
    (msStep { st [] .checkerboard with primary := 1#24, secondary := 2#24 }).frame[1] = 2#24 ∧
    (msStep { st [] .checkerboard with primary := 1#24, secondary := 2#24 }).frame[9] = 1#24 := by decide

/-- R146 with R106's example: at offset 3 column 0 is the blend at 3 and column 5 the primary colour. -/
theorem test_gradient_tick :
    (msStep { st [] .gradient with primary := 0xFF0000#24, secondary := 255#24, gradOffset := 3#3 }).frame[0]
      = 0x91006D#24 ∧
    (msStep { st [] .gradient with primary := 0xFF0000#24, secondary := 255#24, gradOffset := 3#3 }).frame[5]
      = 0xFF0000#24 ∧
    (msStep { st [] .gradient with gradOffset := 7#3 }).gradOffset = 0#3 := by decide

/-- R161 with S11: red at brightness 255 leaves as `pix(0; 0,255,0)`. -/
theorem test_submit :
    (submitStep .ok { st [] .static .submit with
      frame := Frame.ofFn fun _ => 0xFF0000#24, brtSnap := 255#8 }).trace
      = [.setPixel 0#6 0#8 255#8 0#8] := by decide

/-- R161: the erring 64th submission is diagnosed after the pixel and the lock wait begins. -/
theorem test_submit_last :
    (submitStep .err { st [] .static .submit with pixIdx := 63#6 }).trace
      = [.setPixel 63#6 0#8 0#8 0#8, .diag .sinkPixelError 63#6] ∧
    (submitStep .err { st [] .static .submit with pixIdx := 63#6 }).seq = .lockWait := by decide

/-- R165. -/
theorem test_grant : (grantStep (st [] .static .lockWait)).seq = .refresh ∧
    (grantStep (st [] .static .lockWait)).trace = [.refresh] := by decide

/-- R166: the 100th pulse of a lock wait; the cadence is that of the rendered mode (R149). -/
theorem test_timeout :
    (msStep { st [] .static .lockWait with lockMs := 99#7, modeSnap := .checkerboard }).waitMs = 500#9 ∧
    (msStep { st [] .static .lockWait with lockMs := 99#7 }).trace = [.diag .hardwareRefreshTimeout 0#6] ∧
    (msStep { st [] .static .lockWait with lockMs := 98#7 }).lockMs = 99#7 := by decide

/-- R191: at the 100th pulse the grant wins, whatever the order given; one pulse earlier both count. -/
theorem test_tie : (grantWithMsStep false { st [] .static .lockWait with lockMs := 99#7 }).seq = .refresh ∧
    (grantWithMsStep false { st [] .static .lockWait with lockMs := 98#7 }).lockMs = 99#7 := by decide

/-- R167, R149. -/
theorem test_refresh : (refreshStep .err { st [] .static .refresh with modeSnap := .rainbow }).waitMs = 50#9 ∧
    (refreshStep .err (st [] .static .refresh)).trace = [.diag .sinkRefreshError 0#6] ∧
    (refreshStep .ok (st [] .static .refresh)).seq = .wait := by decide

/-- R210: a reset in the middle of a tick. -/
theorem test_reset : (resetStep ⟨9#8, 1#24, 2#24⟩ (st [(5, 1#24)] .random .refresh)).fb = [] ∧
    (resetStep ⟨9#8, 1#24, 2#24⟩ (st [(5, 1#24)] .random .refresh)).seq = .wait ∧
    (resetStep ⟨9#8, 1#24, 2#24⟩ (st [(5, 1#24)] .random .refresh)).brightness = 9#8 := by decide

/-! ### Witnesses: the hypotheses of each obligation can be met -/

theorem witness_DecodedWordsAreCanonical : decode 0x0107070102030000#64 = .ok (.setpix 7#8 7#8 0x010203#24) := by
  decide

/-- The opcodes with the `ZERO` bits of their formats, as `IllegalWordsAreRefused` lists them. -/
def zeroFields : List (BitVec 8 × Word) :=
  [(0x01#8, 0x000000000000FFFF#64), (0x02#8, 0x00FFFF000000FFFF#64), (0x03#8, 0x000000FFFFFFFFFF#64),
   (0x04#8, 0x00FFFFFFFFFFFFFF#64), (0x10#8, 0x0000FFFFFFFFFFFF#64), (0x11#8, 0x00FFFF000000FFFF#64),
   (0x12#8, 0x00FFFF000000FFFF#64), (0x13#8, 0x0000FFFFFFFFFFFF#64), (0x20#8, 0x000000FFFFFFFFFF#64),
   (0x21#8, 0x00F0000000FFFFFF#64), (0x22#8, 0x00F8000000000000#64), (0x23#8, 0x00FFFF000000FFFF#64),
   (0x30#8, 0x00FFFFFFFFFFFFFF#64)]

/-- A `RENDER` with bit 0 set, an unknown opcode, and a word of the second clause. -/
theorem witness_IllegalWordsAreRefused :
    (∀ z ∈ zeroFields, (0x3000000000000001#64 : Word).extractLsb' 56 8 = z.1 →
      0x3000000000000001#64 &&& z.2 ≠ 0#64) ∧
    (∀ z ∈ zeroFields, (0x0500000000000000#64 : Word).extractLsb' 56 8 = z.1 →
      0x0500000000000000#64 &&& z.2 ≠ 0#64) ∧
    (∃ z ∈ zeroFields, (0x2207FFFFFFFFFFFF#64 : Word).extractLsb' 56 8 = z.1 ∧
      0x2207FFFFFFFFFFFF#64 &&& z.2 = 0#64) := by
  refine ⟨fun z hz => ?_, fun z hz => ?_, ⟨(0x22#8, 0x00F8000000000000#64), by simp [zeroFields], rfl, rfl⟩⟩
  · fin_cases hz <;> decide
  · fin_cases hz <;> decide

/-- A state with one command word queued. -/
def queued (w : Word) (s : State := State.reset) : State := { s with inputs := [.cmd w] }

theorem witness_StepRunsTheDecodedCommand :
    (queued 0x3000000000000000#64).inputs = .cmd 0x3000000000000000#64 :: [] ∧
    (queued 0x3000000000000000#64).respQ = [] ∧ decode 0x3000000000000000#64 = .ok .render := by decide

theorem witness_StepReactsToTheNextEvent :
    ({ State.reset with inputs := [.ms] }).inputs = Event.ms :: [] ∧ State.reset.inputs = [] := by decide

theorem witness_PendingBeatsHoldTheNextCommand :
    ({ queued 0#64 with respQ := [⟨.ok, 7#32, true⟩] }).inputs = .cmd 0#64 :: [] ∧
    ({ queued 0#64 with respQ := [⟨.ok, 7#32, true⟩] }).respQ = ⟨.ok, 7#32, true⟩ :: [] ∧
    ({ State.reset with inputs := [.takeBeat], respQ := [⟨.ok, 7#32, true⟩] }).inputs
      = Event.takeBeat :: [] := by decide

theorem witness_EveryWordIsAnswered : State.reset.respQ = [] ∧ decode 0#64 ≠ .ok .getall ∧
    decode 0x0400000000000000#64 = .ok .getall := by decide

theorem witness_RefusedWordsDoNothing :
    ∃ t, acceptWord 0#64 State.reset = .next t ∧
      t.trace = State.reset.trace ++ [.response ⟨.illegalCommand, 0#32, true⟩] := ⟨_, rfl, rfl⟩

/-- The hypotheses of `StatusFollowsTheChecks`, and every status of it, at the boundaries of the ranges. -/
theorem witness_StatusFollowsTheChecks_hypotheses :
    Instr.render ≠ .getall ∧ ∃ e, decode 0x0100000000000001#64 = .error e := ⟨by decide, _, rfl⟩

/-- Every status of `StatusFollowsTheChecks` occurs, at the boundaries of the ranges. -/
theorem witness_StatusFollowsTheChecks :
    reply (run 0x0107070000000000 State.reset) = some (.ok, 0#32, true) ∧
    reply (run 0x0300080000000000 State.reset) = some (.outOfRange, 0#32, true) ∧
    reply (run 0x1005000000000000 State.reset) = some (.unknownMode, 0#32, true) ∧
    reply (run 0x1004000000000000 State.reset) = some (.ok, 0#32, true) ∧
    reply (run 0x210B3F0000000000 State.reset) = some (.ok, 0#32, true) ∧
    reply (run 0x210B400000000000 State.reset) = some (.domainError, 0#32, true) ∧
    reply (run 0x3000000000000000 (st [] .static .refresh)) = some (.busy, 0#32, true) := by decide

theorem witness_ScaleLaws : (254#8).toNat ≤ (255#8).toNat := by decide

theorem witness_ScaleCommandAnswersTheQuotient :
    (0x2000000000000001#64 : Word).extractLsb' 56 8 = 0x20#8 ∧
    0x2000000000000001#64 &&& 0x000000FFFFFFFFFF#64 ≠ 0#64 := by decide

theorem witness_HsvToRgbIsTheExactDefinition : (2879#12).toNat < 2880 ∧ (0#12).toNat < 2880 := by decide

theorem witness_HsvChannelsLieBetweenLoAndValue : (480#12).toNat < 2880 ∧
    hsvToRgb 480#12 128#8 255#8 = 0xFFFF7F#24 := by decide

theorem witness_Hsv2rgbCommandAnswersTheColour : (2879#12).toNat < 2880 ∧ 2880 ≤ (2880#12).toNat := by decide

theorem witness_BlendCommandAnswersTheInterpolation :
    (0x2208000000000000#64 : Word).extractLsb' 56 8 = 0x22#8 ∧
    0x2208000000000000#64 &&& 0x00F8000000000000#64 ≠ 0#64 := by decide

theorem witness_WireordCommandAnswersTheWireTriple :
    (0x2380000000000000#64 : Word).extractLsb' 56 8 = 0x23#8 ∧
    0x2380000000000000#64 &&& 0x00FFFF000000FFFF#64 ≠ 0#64 := by decide

theorem witness_SetpixStoresOnePixel : (7#8).toNat < 8 ∧ pixelIndex 7#8 7#8 = some 63 ∧
    pixelIndex 0#8 0#8 = some 0 ∧ pixelIndex 2#8 5#8 = some 21 ∧ Memory.wf [(21, 1#24)] = true := by decide

theorem witness_OutOfRangeCoordinatesAreRefused : (8 ≤ (8#8).toNat ∨ 8 ≤ (0#8).toNat) ∧
    (8 ≤ (7#8).toNat ∨ 8 ≤ (8#8).toNat) := by decide

theorem witness_FillStoresEveryPixel : Memory.wf [(0, 1#24), (63, 2#24)] = true := by decide

theorem witness_GetpixAnswersThePixel : (7#8).toNat < 8 ∧ (0#8).toNat < 8 := by decide

theorem witness_GetallResponseCompletesFirst :
    ({ State.reset with inputs := [.cmd 0x0400000000000000#64, .cmd 0#64] }).respQ = [] ∧
    ({ State.reset with inputs := [.cmd 0x0400000000000000#64, .cmd 0#64] }).inputs
      = .cmd 0x0400000000000000#64 :: .cmd 0#64 :: [] := by decide

theorem witness_SetmodeWritesTheMode : (4#8).toNat = (Mode.code .random).toNat ∧
    (0#8).toNat = (Mode.code .static).toNat ∧ 4 < (5#8).toNat ∧ (4#8).toNat ≤ 4 := by decide

theorem witness_CommandsWriteOnlyWhatTheyOwn :
    (∃ t, exec (.setmode 4#8) (st []) = .next t ∧ t.mode ≠ (st []).mode) ∧
    (∃ t, exec (.setpri 1#24) (st []) = .next t ∧ t.primary ≠ (st []).primary) ∧
    (∃ t, exec (.setsec 1#24) (st []) = .next t ∧ t.secondary ≠ (st []).secondary) ∧
    (∃ t, exec (.setbrt 7#8) (st []) = .next t ∧ t.brightness ≠ (st []).brightness) ∧
    (∃ t, exec (.setpix 7#8 7#8 1#24) (st []) = .next t ∧ t.fb ≠ (st []).fb) ∧
    (∃ t, exec (.fill 0#24) (st [(63, 1#24)]) = .next t ∧ t.fb ≠ (st [(63, 1#24)]).fb) ∧
    (∃ t, exec .render (st [] .gradient) = .next t ∧ t.phaseRegs ≠ (st [] .gradient).phaseRegs) ∧
    (∃ t, exec .render (st []) = .next t ∧ t.seqRegs ≠ (st []).seqRegs) ∧
    (∃ t, exec .getall (st []) = .next t ∧ t.respQ ≠ (st []).respQ) :=
  ⟨⟨_, rfl, by decide⟩, ⟨_, rfl, by decide⟩, ⟨_, rfl, by decide⟩, ⟨_, rfl, by decide⟩, ⟨_, rfl, by decide⟩,
   ⟨_, rfl, by decide⟩, ⟨_, rfl, by decide⟩, ⟨_, rfl, fun h => by cases congrArg Prod.fst h⟩,
   ⟨_, rfl, by decide⟩⟩

theorem witness_ModeChangesOnlyBySetmode :
    (∃ t, step (queued 0x1003000000000000#64) = .next t ∧ t.mode ≠ (queued 0x1003000000000000#64).mode) ∧
    (∃ t, step { st [] .random with inputs := [.rst ⟨0#8, 0#24, 0#24⟩] } = .next t ∧ t.mode ≠ .random) :=
  ⟨⟨_, rfl, by decide⟩, ⟨_, rfl, by decide⟩⟩

theorem witness_FrameBufferChangesOnlyByItsCommands :
    (∃ t, step (queued 0x01020510FF800000#64) = .next t ∧ t.fb ≠ []) ∧
    (∃ t, step { st [(5, 1#24)] with inputs := [.rst ⟨0#8, 0#24, 0#24⟩] } = .next t ∧
      t.fb ≠ [(5, 1#24)]) :=
  ⟨⟨_, rfl, by decide⟩, ⟨_, rfl, by decide⟩⟩

theorem witness_StaticAndRandomFrames : (st [(5, 1#24)]).mode = .static ∧ (st [] .random).mode = .random := by
  decide

theorem witness_RainbowFrame : (st [] .rainbow).mode = .rainbow ∧ (st [(5, 1#24)] .rainbow).mode = .rainbow ∧
    (st [(5, 1#24)] .rainbow).hueOffset = (st [] .rainbow).hueOffset := by decide

theorem witness_CheckerboardFrame : (st [] .checkerboard).mode = .checkerboard := by decide

theorem witness_GradientFrame : (st [] .gradient).mode = .gradient ∧ (st [] .gradient).gradOffset = 0#3 := by
  decide

/-- A list of `n` 64-tuples of draws. -/
def draws (n : Nat) : List Frame := List.replicate n State.reset.frame

theorem witness_PhasePeriods :
    (st [] .rainbow).mode = .rainbow ∧ ({ st [] .rainbow with hueOffset := 2864#12 }).hueOffset.toNat < 2880 ∧
    (draws 180).length = 180 ∧ 0 < (draws 179).length ∧ (draws 179).length < 180 ∧
    (st [] .gradient).mode = .gradient ∧ (draws 8).length = 8 ∧ (draws 7).length < 8 ∧
    (st [] .checkerboard).mode = .checkerboard ∧ (st []).mode = .static :=
  ⟨rfl, by decide, List.length_replicate, by simp only [draws, List.length_replicate]; decide,
   by simp only [draws, List.length_replicate]; decide, rfl, List.length_replicate,
   by simp only [draws, List.length_replicate]; decide, rfl, rfl⟩

theorem witness_RenderStartsATickOrIsBusy : (st []).seq = .wait ∧ (st [] .static .lockWait).seq ≠ .wait := by
  decide

theorem witness_MsCountsDownOrStartsATick :
    ({ st [] with waitMs := 1#9 }).seq = .wait ∧ ({ st [] with waitMs := 1#9 }).waitMs.toNat ≤ 1 ∧
    1 < ({ st [] with waitMs := 2#9 }).waitMs.toNat := by decide

/-- A state between ticks with `n` milliseconds to wait and as many pulses queued. -/
def waiting (n : Nat) : State := { st [] with waitMs := BitVec.ofNat 9 n, inputs := List.replicate n .ms }

theorem witness_IntervalWaitLastsItsCount :
    (waiting 1).seq = .wait ∧ (waiting 1).waitMs.toNat = 1 ∧
    (waiting 1).inputs = List.replicate 1 .ms ++ [] ∧ (waiting 50).waitMs.toNat = 50 ∧
    (waiting 50).inputs = List.replicate 50 .ms ++ [] := by decide

theorem witness_MsIsIdleWhileSubmittingOrRefreshing :
    (st [] .static .submit).seq = .submit ∧ (st [] .static .refresh).seq = .refresh := by decide

/-- Every row of the table that changes `SEQ` is taken by some event. -/
theorem witness_SequencerTransitionTable :
    (∃ t, react .ms (st []) = .next t ∧ t.seq = .submit) ∧
    (∃ t, react (.cmd 0x3000000000000000#64) (st []) = .next t ∧ t.seq = .submit) ∧
    (∃ t, react (.submit .ok) { st [] .static .submit with pixIdx := 63#6 } = .next t ∧ t.seq = .lockWait) ∧
    (∃ t, react .grant (st [] .static .lockWait) = .next t ∧ t.seq = .refresh) ∧
    (∃ t, react .ms { st [] .static .lockWait with lockMs := 99#7 } = .next t ∧ t.seq = .wait) ∧
    (∃ t, react (.refresh .ok) (st [] .static .refresh) = .next t ∧ t.seq = .wait) ∧
    (∃ t, react (.rst ⟨0#8, 0#24, 0#24⟩) (st [] .static .submit) = .next t ∧ t.seq = .wait) :=
  ⟨⟨_, rfl, rfl⟩, ⟨_, rfl, rfl⟩, ⟨_, rfl, rfl⟩, ⟨_, rfl, rfl⟩,
   ⟨_, rfl, rfl⟩, ⟨_, rfl, rfl⟩, ⟨_, rfl, rfl⟩⟩

theorem witness_SubmitOutputsOnePixel :
    (st [] .static .submit).seq = .submit ∧ (st [] .static .submit).pixIdx.toNat < 63 ∧
    ({ st [] .static .submit with pixIdx := 62#6 }).pixIdx.toNat < 63 ∧
    ({ st [] .static .submit with pixIdx := 63#6 }).pixIdx.toNat = 63 := by decide

theorem witness_SinkErrorsOnlyAddADiagnostic :
    (st [] .static .submit).seq = .submit ∧ (st [] .static .refresh).seq = .refresh := by decide

theorem witness_GrantIssuesTheRefresh :
    (st [] .static .lockWait).seq = .lockWait ∧ (st [] .static .refresh).seq ≠ .lockWait ∧
    99 ≤ ({ st [] .static .lockWait with lockMs := 99#7 }).lockMs.toNat ∧
    ∃ t, react .ms { st [] .static .lockWait with lockMs := 99#7 } = .next t :=
  ⟨by decide, by decide, by decide, ⟨_, rfl⟩⟩

theorem witness_MsBoundsTheLockWait :
    (st [] .static .lockWait).seq = .lockWait ∧
    ({ st [] .static .lockWait with lockMs := 98#7 }).lockMs.toNat < 99 ∧
    99 ≤ ({ st [] .static .lockWait with lockMs := 99#7 }).lockMs.toNat := by decide

theorem witness_LockWaitTimesOutAtTheHundredthPulse :
    ({ st [] .static .lockWait with inputs := List.replicate 100 .ms }).seq = .lockWait ∧
    ({ st [] .static .lockWait with inputs := List.replicate 100 .ms }).lockMs = 0#7 ∧
    ({ st [] .static .lockWait with inputs := List.replicate 100 .ms }).inputs
      = List.replicate 100 .ms ++ [] := by decide

theorem witness_GrantWinsTheTie : ({ st [] .static .lockWait with lockMs := 99#7 }).seq = .lockWait ∧
    99 ≤ ({ st [] .static .lockWait with lockMs := 99#7 }).lockMs.toNat := by decide

theorem witness_RefreshEndsTheTick : (st [] .static .refresh).seq = .refresh := by decide

theorem witness_NoFrameIsComputedUnderTheLock :
    (∃ t, react .grant (st [] .static .lockWait) = .next t) ∧ notReset .grant ∧
    lockReq (st [] .static .lockWait) = true :=
  ⟨⟨_, rfl⟩, fun _ h => Event.noConfusion h, by decide⟩

theorem witness_SnapshotIsFixedDuringATick :
    (∃ t, step { queued 0x1380000000000000#64 with seq := .submit } = .next t) ∧
    ({ queued 0x1380000000000000#64 with seq := .submit }).seq ≠ .wait ∧
    notReset (takeEvent { queued 0x1380000000000000#64 with seq := .submit }).1 :=
  ⟨⟨_, rfl⟩, by decide, fun _ h => Event.noConfusion h⟩

/-- A tick in progress with one submission queued. -/
def submitting : State := { st [] .static .submit with inputs := [.submit .ok] }

theorem witness_NoTornFrames : withinTick 1 submitting ∧ ∃ t, stepN 1 submitting = some t := by
  refine ⟨fun j hj u hu => ?_, ⟨_, rfl⟩⟩
  obtain rfl : j = 0 := by omega
  cases hu
  exact ⟨by decide, fun _ h => Event.noConfusion h⟩

theorem witness_TickOutputsInOrder :
    (st [] .static .submit).seq = .submit ∧ (st [] .static .submit).pixIdx = 0#6 ∧
    (SinkAnswer.err :: List.replicate 63 SinkAnswer.ok).length = 64 ∧
    ({ st [] .static .submit with
      inputs := (SinkAnswer.err :: List.replicate 63 SinkAnswer.ok).map Event.submit ++
        [Event.grant, Event.refresh .err] }).inputs
      = (SinkAnswer.err :: List.replicate 63 SinkAnswer.ok).map Event.submit ++
          [Event.grant, Event.refresh .err] ++ [] := by decide

theorem witness_FrameBufferIsHiddenOutsideStatic : (st [] .rainbow).mode ≠ .static := by decide

theorem reset_inv : Inv State.reset :=
  ⟨rfl, by decide, by decide, by decide, by decide, by decide, by decide, ⟨[], 64, rfl⟩⟩

theorem witness_StepKeepsTheInvariant :
    Inv (queued 0x0400000000000000#64) ∧ ∃ t, step (queued 0x0400000000000000#64) = .next t :=
  ⟨⟨rfl, by decide, by decide, by decide, by decide, by decide, by decide, ⟨[], 64, rfl⟩⟩, ⟨_, rfl⟩⟩

/-- A fair environment for `State.reset`: a pulse starts the first tick, the sink answers at once, the arbiter grants
at once, and the 100 pulses of the Static cadence start the next tick: 166 events, over and over. -/
def fairChoice (n : Nat) : Event :=
  if (n + 99) % 166 < 100 then .ms
  else if (n + 99) % 166 < 164 then .submit .ok
  else if (n + 99) % 166 = 164 then .grant
  else .refresh .ok

/-- Where the run from `State.reset` stands before its `n`-th event, `r` events into the round. -/
def Stands (n : Nat) (u : State) : Prop :=
  let r := (n + 99) % 166
  u.inputs = [] ∧ u.envIdx = n ∧ u.mode = .static ∧
  ((r < 100 ∧ u.seq = .wait ∧ (u.waitMs.toNat + r = 100 ∨ (r = 99 ∧ u.waitMs.toNat ≤ 1))) ∨
   (100 ≤ r ∧ r < 164 ∧ u.seq = .submit ∧ u.pixIdx.toNat = r - 100 ∧ u.modeSnap = .static) ∨
   (r = 164 ∧ u.seq = .lockWait ∧ u.modeSnap = .static) ∨
   (r = 165 ∧ u.seq = .refresh ∧ u.modeSnap = .static))

theorem stands_step {n : Nat} {u : State} (h : Stands n u) :
    ∃ v, stepFrom fairChoice u = .next v ∧ Stands (n + 1) v := by
  obtain ⟨hi, he, hm, h⟩ := h
  have hs : stepFrom fairChoice u = react (fairChoice n) { u with envIdx := n + 1 } := by
    rw [stepFrom, takeFrom_nil hi, he]
  have hr : (n + 1 + 99) % 166 = if (n + 99) % 166 = 165 then 0 else (n + 99) % 166 + 1 := by
    split <;> omega
  rw [hs]
  unfold Stands fairChoice
  rcases h with ⟨h1, h2, h3⟩ | ⟨h1, h1', h2, h3, h4⟩ | ⟨h1, h2, h3⟩ | ⟨h1, h2, h3⟩
  · by_cases hw : u.waitMs.toNat ≤ 1
    · have h99 : (n + 99) % 166 = 99 := by omega
      refine ⟨startTick { u with envIdx := n + 1 }, by simp [h1, react, msStep, h2, msInWait, hw], ?_⟩
      simp [hi, hm, hr, h99]
    · refine ⟨{ u with envIdx := n + 1, waitMs := u.waitMs - 1#9 },
        by simp [h1, react, msStep, h2, msInWait, hw], hi, rfl, hm, .inl ⟨?_, h2, .inl ?_⟩⟩
      · rw [hr]
        split <;> omega
      · have := u.waitMs.isLt
        simp only [BitVec.toNat_sub, BitVec.toNat_ofNat, hr]
        split <;> omega
  · have hn : ¬ (n + 99) % 166 < 100 := by omega
    refine ⟨submitStep .ok { u with envIdx := n + 1 },
      by simp only [if_neg hn, if_pos h1', react, submitEvent, h2, if_true], ?_⟩
    have hp : (u.pixIdx + 1#6).toNat = (u.pixIdx.toNat + 1) % 64 := by simp [BitVec.toNat_add]
    rw [submitStep_eq]
    by_cases h63 : u.pixIdx.toNat < 63
    · simp only [h63, if_true]
      refine ⟨hi, rfl, hm, .inr (.inl ⟨?_, ?_, h2, ?_, h4⟩)⟩ <;> simp only [hr, hp] <;> split <;> omega
    · simp only [h63, if_false, hr]
      refine ⟨hi, rfl, hm, .inr (.inr (.inl ⟨?_, trivial, h4⟩))⟩
      split <;> omega
  · refine ⟨grantStep { u with envIdx := n + 1 }, by simp [h1, react], ?_⟩
    simp [grantStep, h2, hi, hm, h3, hr, h1]
  · refine ⟨refreshStep .ok { u with envIdx := n + 1 }, by simp [h1, react, refreshEvent, h2], ?_⟩
    simp [refreshStep, hi, hm, h3, hr, h1, cadenceMs]

theorem stands_run (n : Nat) : ∃ u, runFrom fairChoice n State.reset = some u ∧ Stands n u := by
  induction n with
  | zero => exact ⟨_, rfl, rfl, rfl, rfl, .inl ⟨by decide, rfl, .inr ⟨rfl, by decide⟩⟩⟩
  | succ n ih =>
    obtain ⟨u, hu, h⟩ := ih
    obtain ⟨v, hv, h⟩ := stands_step h
    exact ⟨v, by rw [runFrom_succ_end hu, runFrom_succ_of_step hv]; rfl, h⟩

/-- The duties of the sink and of the timebase can be kept together, from `State.reset` on. -/
theorem witness_TheBlockNeverHalts_duties :
    sinkIsFair fairChoice State.reset ∧ timebaseIsFair fairChoice State.reset := by
  have event : ∀ {n u}, Stands n u → eventFrom fairChoice u = fairChoice n := fun h => by
    rw [eventFrom, takeFrom_nil h.1, h.2.1]
  have at_run : ∀ {n u}, runFrom fairChoice n State.reset = some u → Stands n u := fun {n u} hu => by
    obtain ⟨v, hv, h⟩ := stands_run n
    rw [hu] at hv
    cases hv
    exact h
  refine ⟨fun k u hu => ⟨fun hs => ?_, fun hs => ?_⟩, fun k u hu => ?_⟩
  · have h := at_run hu
    refine ⟨k, u, le_refl k, hu, .inl ⟨hs, .ok, ?_⟩⟩
    rw [event h]
    rcases h.2.2.2 with ⟨_, h2, _⟩ | ⟨h1, h1', _⟩ | ⟨_, h2, _⟩ | ⟨_, h2, _⟩
    · simp [hs] at h2
    · simp [fairChoice, h1', show ¬ (k + 99) % 166 < 100 by omega]
    · simp [hs] at h2
    · simp [hs] at h2
  · have h := at_run hu
    refine ⟨k, u, le_refl k, hu, .inl ⟨hs, .ok, ?_⟩⟩
    rw [event h]
    rcases h.2.2.2 with ⟨_, h2, _⟩ | ⟨_, _, h2, _⟩ | ⟨_, h2, _⟩ | ⟨h1, _⟩
    · simp [hs] at h2
    · simp [hs] at h2
    · simp [hs] at h2
    · simp [fairChoice, h1]
  · obtain ⟨v, hv, h⟩ := stands_run (k + (166 - (k + 99) % 166))
    refine ⟨_, v, by omega, hv, .inl ?_⟩
    rw [event h, fairChoice, if_pos (by omega)]

theorem witness_TheBlockNeverHalts :
    eventAllowed (takeEvent submitting).1 (takeEvent submitting).2 ∧
    ¬ eventAllowed (takeEvent { submitting with seq := .wait }).1
      (takeEvent { submitting with seq := .wait }).2 ∧
    (st [] .static .submit).seq = .submit ∧ sinkIsSilent (fun _ => .ms) 1 (st [] .static .submit) ∧
    (st []).respQ = [] := by
  refine ⟨rfl, fun h => absurd (show Seq.wait = Seq.submit from h) (by decide), rfl, fun j hj u hu => ?_, rfl⟩
  obtain rfl : j = 0 := by omega
  cases hu
  exact ⟨fun _ h => Event.noConfusion h, fun _ => ⟨fun h => Event.noConfusion h, fun h => Event.noConfusion h⟩⟩

/-- R180, R44: the codes on the ports. -/
theorem test_codes : Status.code .busy = 6#4 ∧ Status.code .domainError = 5#4 ∧
    Diag.code .hardwareRefreshTimeout = 3#4 := by decide

end Sys2Proof.Tests
end

section
/-! The `RESET` step (R210): what `react` answers to it, and how the FrameBuffer and the frame register file it
leaves read. -/

namespace Sys2Proof.Machine

variable (straps : Straps) (s : State)

/-- `RESET` is always accepted: it cannot fault or be refused. -/
@[simp] theorem react_rst : react (.rst straps) s = .next (resetStep straps s) := rfl

/-- After `RESET` no pixel is listed, so each reads as the zero of "Created zeroed at startup" (R39). -/
theorem read_fb_resetStep (i : Nat) : Memory.read (resetStep straps s).fb i = 0#24 := by
  rw [resetStep_fb, read_nil, Memory.unlisted]

/-- `FRAME[0..63]` is a replicated zero after reset (R46). -/
theorem getElem_frame_resetWith (i : Nat) (hi : i < 64) : (State.resetWith straps).frame[i] = 0#24 :=
  List.getElem_replicate (by simpa using hi)

/-- Settles O56: `RESET` answers `resetStep`. The arrays FB and FRAME are zero entry by entry, by the two lemmas
above; each remaining row of the table is one field of `resetStep`. -/
theorem resetWritesTheTable : Obligations.ResetWritesTheTable := by
  intro straps s
  refine ⟨resetStep straps s, react_rst straps s, read_fb_resetStep straps s, ?_⟩
  simp [getElem_frame_resetWith]

end Sys2Proof.Machine
end

section
/-! `SETMODE` (R130): `modeOfCode` is the inverse of `Mode.code` on the codes 0 to 4 and has no mode above them
(R24, R81), and what the command answers in either case. -/

namespace Sys2Proof.Machine

variable {val : Byte} {m : Mode}

theorem Mode.code_toNat_le_four (m : Mode) : m.code.toNat ≤ 4 := by
  cases m <;> decide

theorem Mode.exists_toNat_eq_code {n : Nat} (h : n ≤ 4) : ∃ m : Mode, n = m.code.toNat := by
  interval_cases n
  · exact ⟨.static, rfl⟩
  · exact ⟨.rainbow, rfl⟩
  · exact ⟨.checkerboard, rfl⟩
  · exact ⟨.gradient, rfl⟩
  · exact ⟨.random, rfl⟩

theorem modeOfCode_setWidth_code (m : Mode) : modeOfCode (m.code.setWidth 8) = some m := by
  cases m <;> rfl

/-- A mode is selected by its own code and by no other. -/
theorem modeOfCode_eq_some_iff : modeOfCode val = some m ↔ val.toNat = m.code.toNat := by
  refine ⟨modeOfCode_code, fun h => ?_⟩
  have hval : val = m.code.setWidth 8 := by
    apply BitVec.eq_of_toNat_eq
    rw [h, BitVec.toNat_setWidth_of_le (by decide)]
  rw [hval, modeOfCode_setWidth_code]

theorem modeOfCode_eq_none_of_four_lt (h : 4 < val.toNat) : modeOfCode val = none := by
  refine Option.eq_none_iff_forall_ne_some.2 fun m hm => ?_
  have hcode := modeOfCode_code hm
  have hle := m.code_toNat_le_four
  omega

/-- An accepted `SETMODE` writes the mode and answers `OK`. -/
theorem exec_setmode_of_modeOfCode_eq_some (s : State) (h : modeOfCode val = some m) :
    exec (.setmode val) s = .next ({ s with mode := m }.emit [.response ⟨.ok, 0#32, true⟩]) := by
  simp [exec, execSetmode, h, respond_eq]

/-- A `SETMODE` of no mode's code only answers (R183). -/
theorem exec_setmode_of_modeOfCode_eq_none (s : State) (h : modeOfCode val = none) :
    exec (.setmode val) s = .next (s.emit [.response ⟨.unknownMode, 0#32, true⟩]) := by
  simp [exec, execSetmode, h, raise_eq]

/-- Settles O28: a code up to 4 is some mode's and selects it, a code above 4 selects none, and `SETMODE` answers by
whether a mode is selected. -/
theorem setmodeWritesTheMode : Obligations.SetmodeWritesTheMode := by
  intro val s
  refine ⟨fun m h => ?_, fun h => ?_, Mode.exists_toNat_eq_code, rfl, rfl, rfl, rfl, rfl⟩
  · exact exec_setmode_of_modeOfCode_eq_some s (modeOfCode_eq_some_iff.2 h)
  · exact exec_setmode_of_modeOfCode_eq_none s (modeOfCode_eq_none_of_four_lt h)

end Sys2Proof.Machine
end

section
/-! The decoder on a word with a known opcode: a set `ZERO` bit makes the word illegal, otherwise it decodes to the
opcode's operands (R82, R190 checks 1 and 2). Then the words of `SCALE`, `BLEND` and `WIREORD`, field by field as the
formats S, L and C of R71 lay them out; there `hzero` writes the format's `zeroMask` out by the same fields. -/

namespace Sys2Proof

variable {op : Opcode} {w : Word}

/-- The field that stands between `x` and `z` in a concatenation is `y`. -/
theorem extract_middle {k m n : Nat} (x : BitVec k) (y : BitVec m) (z : BitVec n) :
    (x ++ y ++ z).extractLsb' n m = y :=
  (extract_beyond (x ++ y) z 0 m).trans BitVec.extractLsb'_append_eq_right

theorem append_and_append_eq_zero {m n : Nat} {x x' : BitVec m} {y y' : BitVec n} (hx : x &&& x' = 0#m)
    (hy : y &&& y' = 0#n) : (x ++ y) &&& (x' ++ y') = 0#(m + n) := by
  rw [BitVec.and_append, hx, hy, BitVec.zero_append_zero]

theorem decode_of_zero_clear (hop : w.extractLsb' 56 8 = op.code) (hz : w &&& op.format.zeroMask = 0#64) :
    decode w = .ok (operandsOf op w) := by
  simp [decode, hop, ofCode_code, hz]

theorem decode_of_zero_set (hop : w.extractLsb' 56 8 = op.code) (hz : w &&& op.format.zeroMask ≠ 0#64) :
    decode w = .error .zeroBitSet := by
  simp [decode, hop, ofCode_code, hz]

theorem decode_scaleWord (v b : Byte) : decode (0x20#8 ++ v ++ b ++ 0#40) = .ok (.scale v b) := by
  have hop : (0x20#8 ++ v ++ b ++ 0#40).extractLsb' 56 8 = 0x20#8 :=
    (extract_beyond _ _ 16 8).trans ((extract_beyond _ _ 8 8).trans (extract_above _ _))
  have hzero : (0x20#8 ++ v ++ b ++ 0#40) &&& (0#24 ++ BitVec.allOnes 40) = 0#64 :=
    append_and_append_eq_zero BitVec.and_zero BitVec.zero_and
  have hval : (0x20#8 ++ v ++ b ++ 0#40).extractLsb' 48 8 = v :=
    (extract_beyond _ _ 8 8).trans (extract_middle _ _ _)
  have hbrt : (0x20#8 ++ v ++ b ++ 0#40).extractLsb' 40 8 = b := extract_middle _ _ _
  exact (decode_of_zero_clear (op := .scale) hop hzero).trans (by rw [operandsOf, hval, hbrt])

theorem decode_blendWord (n : BitVec 3) (a b : Color) :
    decode (0x22#8 ++ 0#5 ++ n ++ a ++ b) = .ok (.blend n a b) := by
  have hop : (0x22#8 ++ 0#5 ++ n ++ a ++ b).extractLsb' 56 8 = 0x22#8 :=
    (extract_beyond _ _ 32 8).trans ((extract_beyond _ _ 8 8).trans
      ((extract_beyond _ _ 5 8).trans (extract_above _ _)))
  have hzero : (0x22#8 ++ 0#5 ++ n ++ a ++ b) &&& (0#8 ++ BitVec.allOnes 5 ++ 0#3 ++ 0#24 ++ 0#24) = 0#64 :=
    append_and_append_eq_zero (append_and_append_eq_zero (append_and_append_eq_zero
      (append_and_append_eq_zero BitVec.and_zero BitVec.zero_and) BitVec.and_zero) BitVec.and_zero)
      BitVec.and_zero
  have hn : (0x22#8 ++ 0#5 ++ n ++ a ++ b).extractLsb' 48 3 = n :=
    (extract_beyond _ _ 24 3).trans (extract_middle _ _ _)
  have ha : (0x22#8 ++ 0#5 ++ n ++ a ++ b).extractLsb' 24 24 = a := extract_middle _ _ _
  have hb : (0x22#8 ++ 0#5 ++ n ++ a ++ b).extractLsb' 0 24 = b := BitVec.extractLsb'_append_eq_right
  exact (decode_of_zero_clear (op := .blend) hop hzero).trans (by rw [operandsOf, hn, ha, hb])

theorem decode_wireordWord (c : Color) : decode (0x23#8 ++ 0#16 ++ c ++ 0#16) = .ok (.wireord c) := by
  have hop : (0x23#8 ++ 0#16 ++ c ++ 0#16).extractLsb' 56 8 = 0x23#8 :=
    (extract_beyond _ _ 40 8).trans ((extract_beyond _ _ 16 8).trans (extract_above _ _))
  have hzero : (0x23#8 ++ 0#16 ++ c ++ 0#16) &&&
      (0#8 ++ BitVec.allOnes 16 ++ 0#24 ++ BitVec.allOnes 16) = 0#64 :=
    append_and_append_eq_zero (append_and_append_eq_zero
      (append_and_append_eq_zero BitVec.and_zero BitVec.zero_and) BitVec.and_zero) BitVec.zero_and
  have hc : (0x23#8 ++ 0#16 ++ c ++ 0#16).extractLsb' 16 24 = c := extract_middle _ _ _
  exact (decode_of_zero_clear (op := .wireord) hop hzero).trans (by rw [operandsOf, hc])

end Sys2Proof
end

section
/-! What an accepted word answers, by how it decodes. -/

namespace Sys2Proof.Machine

variable {op : Opcode} {w : Word}

theorem acceptWord_of_decode {i : Instr} (h : decode w = .ok i) (s : State) : acceptWord w s = exec i s := by
  simp [acceptWord, h]

/-- A set `ZERO` bit is answered `IllegalCommand`, and nothing else changes (R187). -/
theorem acceptWord_of_zero_set (hop : w.extractLsb' 56 8 = op.code) (hz : w &&& op.format.zeroMask ≠ 0#64)
    (s : State) : acceptWord w s = .next (s.emit [.response ⟨.illegalCommand, 0#32, true⟩]) := by
  simp [acceptWord, decode_of_zero_set hop hz, raise_eq]

end Sys2Proof.Machine
end

section
/-! `scale` and the `SCALE` command (R100, R104). -/

namespace Sys2Proof.Machine

theorem scale_comm (x y : Byte) : scale x y = scale y x := by
  simp only [scale, Nat.mul_comm]

@[simp] theorem scale_zero_right (x : Byte) : scale x 0#8 = 0#8 := by
  simp [scale]

@[simp] theorem scale_zero_left (x : Byte) : scale 0#8 x = 0#8 := by
  rw [scale_comm, scale_zero_right]

@[simp] theorem scale_full_right (x : Byte) : scale x 255#8 = x := by
  simp [scale]

@[simp] theorem scale_full_left (x : Byte) : scale 255#8 x = x := by
  rw [scale_comm, scale_full_right]

theorem exec_scale (v b : Byte) (s : State) :
    exec (.scale v b) s = .next (s.emit [.response ⟨.ok, byteData (scale v b), true⟩]) := rfl

@[simp] theorem byteData_toNat (b : Byte) : (byteData b).toNat = b.toNat :=
  (BitVec.toNat_append 0#24 b).trans (by simp)

/-- Settles O12: a byte is at most 255, so the product is at most 255 times 255; `scale_toNat` is the exact floor, and
the channels of a packed colour are read back one by one. -/
theorem scaleIsTheFloorOfTheQuotient : Obligations.ScaleIsTheFloorOfTheQuotient := by
  intro v b
  have hprod : v.toNat * b.toNat ≤ 255 * 255 :=
    Nat.mul_le_mul (Nat.le_of_lt_succ v.isLt) (Nat.le_of_lt_succ b.isLt)
  refine ⟨hprod, scale_bound v b, scale_toNat v b, fun c => ?_⟩
  simp [scaleColor]

/-- Settles O14: the word of the encoding clause decodes, and running it answers `scale`, whose value `scale_toNat`
gives; a set bit of format S's `ZERO` field is refused before that. The example is the encoding clause's word at
128, 128. -/
theorem scaleCommandAnswersTheQuotient : Obligations.ScaleCommandAnswersTheQuotient := by
  refine ⟨decode_scaleWord, fun v b s => ?_, fun w s hop hz => ?_, fun x => ?_, by decide, fun s => ?_⟩
  · exact ⟨byteData (scale v b), (byteData_toNat _).trans (scale_toNat v b), exec_scale v b s⟩
  · exact acceptWord_of_zero_set (op := .scale) hop hz s
  · exact ⟨scale_zero_left x, scale_zero_right x, scale_full_right x, scale_full_left x⟩
  · exact acceptWord_of_decode (decode_scaleWord 128#8 128#8) s

end Sys2Proof.Machine
end

section
/-! `blend` and the `BLEND` command (R102, R106). -/

namespace Sys2Proof.Machine

@[simp] theorem blendChannel_zero (x y : Byte) : blendChannel x y 0#3 = x := by
  simp [blendChannel]

@[simp] theorem blendChannel_seven (x y : Byte) : blendChannel x y 7#3 = y := by
  simp [blendChannel]

/-- The weights `7 - N` and `N` sum to 7. -/
@[simp] theorem blendChannel_self (x : Byte) (n : BitVec 3) : blendChannel x x n = x := by
  have hn : 7 - n.toNat + n.toNat = 7 := Nat.sub_add_cancel (Nat.le_of_lt_succ n.isLt)
  simp [blendChannel, ← Nat.mul_add, hn]

@[simp] theorem blend_zero (a b : Color) : blend a b 0#3 = a := by
  simp [blend]

@[simp] theorem blend_seven (a b : Color) : blend a b 7#3 = b := by
  simp [blend]

@[simp] theorem blend_self (a : Color) (n : BitVec 3) : blend a a n = a := by
  simp [blend]

theorem exec_blend (n : BitVec 3) (a b : Color) (s : State) :
    exec (.blend n a b) s = .next (s.emit [.response ⟨.ok, colorData (blend a b n), true⟩]) := rfl

/-- Settles O19: the word of the encoding clause decodes, and running it answers `blend`; a set bit of format L's
`ZERO` field is refused before that. The corner cases hold channel by channel, and the example is the encoding
clause's word at 3, red, blue. -/
theorem blendCommandAnswersTheInterpolation : Obligations.BlendCommandAnswersTheInterpolation := by
  refine ⟨decode_blendWord, exec_blend, fun w s hop hz => ?_, fun n a b => ?_, by decide, by decide, fun s => ?_⟩
  · exact acceptWord_of_zero_set (op := .blend) hop hz s
  · exact ⟨blend_zero a b, blend_seven a b, blend_self a n⟩
  · exact acceptWord_of_decode (decode_blendWord 3#3 0xFF0000#24 0x0000FF#24) s

end Sys2Proof.Machine
end

section
/-! The `WIREORD` command (R107). -/

namespace Sys2Proof.Machine

@[simp] theorem wireOrder_rgb (r g b : Byte) : wireOrder (rgb r g b) = rgb g r b := by
  simp [wireOrder_eq]

theorem colorData_rgb (r g b : Byte) : colorData (rgb r g b) = 0#8 ++ r ++ g ++ b :=
  BitVec.append_assoc'.trans (congrArg (· ++ b) BitVec.append_assoc')

theorem exec_wireord (c : Color) (s : State) :
    exec (.wireord c) s = .next (s.emit [.response ⟨.ok, colorData (wireOrder c), true⟩]) := rfl

theorem exec_wireord_rgb (r g b : Byte) (s : State) :
    exec (.wireord (rgb r g b)) s = .next (s.emit [.response ⟨.ok, 0#8 ++ g ++ r ++ b, true⟩]) := by
  rw [exec_wireord, wireOrder_rgb, colorData_rgb]

/-- Settles O20: the word of the encoding clause decodes, and running it answers the reordered channels; a set bit of
format C's `ZERO` fields is refused before that. Every colour is the packing of its channels, and reordering swaps the
first two, which are equal in a grey. -/
theorem wireordCommandAnswersTheWireTriple : Obligations.WireordCommandAnswersTheWireTriple := by
  refine ⟨decode_wireordWord, exec_wireord_rgb, fun c => ?_, fun w s hop hz => ?_, fun x => ?_, fun s => ?_⟩
  · exact ⟨red c, green c, blue c, (rgb_channels c).symm⟩
  · exact acceptWord_of_zero_set (op := .wireord) hop hz s
  · exact wireOrder_rgb x x x
  · exact acceptWord_of_decode (decode_wireordWord 0x112233#24) s

end Sys2Proof.Machine
end

section
/-! The Checkerboard and Gradient frames (R145, R146), pixel by pixel. Pixel `(row, col)` is entry `row*8 + col` of the
frame (R51), and the phase of the gradient is 3-bit arithmetic, so that "mod 8" is the addition's own wrap-around. -/

namespace Sys2Proof.Machine

variable (rnd : Frame) {s : State} {row col : Nat}

theorem tickStart_frame_of_checkerboard (h : s.mode = .checkerboard) :
    (tickStart rnd s).frame = frameChecker s.primary s.secondary := by
  simp [tickFrame, h]

theorem tickStart_frame_of_gradient (h : s.mode = .gradient) :
    (tickStart rnd s).frame = frameGradient s.primary s.secondary s.gradOffset := by
  simp [tickFrame, h]

/-- Each offset advances in its own mode only (R142). -/
theorem tickStart_phaseRegs_of_checkerboard (h : s.mode = .checkerboard) :
    (tickStart rnd s).phaseRegs = s.phaseRegs := by
  simp [State.phaseRegs, h]

theorem frameChecker_getElem (p c : Color) (hcol : col < 8) (hi : row * 8 + col < 64) :
    (frameChecker p c)[row * 8 + col] = if (row + col) % 2 = 0 then p else c := by
  have hrow : (row * 8 + col) / 8 = row := by omega
  have hmod : (row * 8 + col) % 8 = col := by omega
  simp [frameChecker, hrow, hmod]

theorem frameGradient_getElem (p c : Color) (off : BitVec 3) (hi : row * 8 + col < 64) :
    (frameGradient p c off)[row * 8 + col] = blend p c (BitVec.ofNat 3 col + off) := by
  rw [frameGradient, ofFn_getElem]
  congr 1
  apply BitVec.eq_of_toNat_eq
  simp only [BitVec.toNat_add, BitVec.toNat_ofNat]
  omega

/-- A column at the next offset blends as its right neighbour, around, does at this one. -/
theorem column_add_advanceGrad (off : BitVec 3) :
    BitVec.ofNat 3 col + advanceGrad off = BitVec.ofNat 3 ((col + 1) % 8) + off := by
  apply BitVec.eq_of_toNat_eq
  simp only [BitVec.toNat_add, BitVec.toNat_ofNat, advanceGrad_toNat]
  omega

theorem tickStart_pixel_of_gradient (h : s.mode = .gradient) (hi : row * 8 + col < 64) :
    (tickStart rnd s).frame[row * 8 + col]
      = blend s.primary s.secondary (BitVec.ofNat 3 col + s.gradOffset) := by
  simp only [tickStart_frame_of_gradient rnd h, frameGradient_getElem]

/-- Settles O36: the frame is `frameChecker` of the two colours, which has no phase among its arguments. -/
theorem checkerboardFrame : Obligations.CheckerboardFrame := by
  have hpixel (rnd : Frame) {s : State} (h : s.mode = .checkerboard) (row col : Fin 8) :
      (tickStart rnd s).frame[row.val * 8 + col.val]'(by omega)
        = if (row.val + col.val) % 2 = 0 then s.primary else s.secondary := by
    simp only [tickStart_frame_of_checkerboard rnd h, frameChecker_getElem _ _ col.isLt]
  refine ⟨fun rnd s h => ⟨hpixel rnd h, hpixel rnd h 0 0, tickStart_phaseRegs_of_checkerboard rnd h⟩,
    fun rnd s hue grad h => ?_⟩
  rw [tickStart_frame_of_checkerboard rnd h,
    tickStart_frame_of_checkerboard (s := { s with hueOffset := hue, gradOffset := grad }) rnd h]

/-- Settles O37: a pixel is the blend at `col + off`, which does not name its row. At offset 0 the outer columns are
the blends at 0 and 7; the next tick is again a Gradient tick, at the advanced offset. -/
theorem gradientFrame : Obligations.GradientFrame := by
  intro rnd s h
  have hnext : (tickStart rnd s).gradOffset = advanceGrad s.gradOffset := by simp [h]
  refine ⟨fun row col => ⟨_, ?_, tickStart_pixel_of_gradient rnd h _⟩, fun row row' col => ?_,
    fun hoff row => ⟨?_, ?_⟩, fun row col => ?_, ?_⟩
  · rw [BitVec.toNat_add, BitVec.toNat_ofNat, Nat.mod_add_mod]
  · rw [tickStart_pixel_of_gradient rnd h, tickStart_pixel_of_gradient rnd h]
  · exact (tickStart_pixel_of_gradient (col := 0) rnd h _).trans (by simp [hoff])
  · exact (tickStart_pixel_of_gradient rnd h _).trans (by simp [hoff])
  · rw [tickStart_pixel_of_gradient rnd h, tickStart_pixel_of_gradient (s := tickStart rnd s) rnd h, hnext,
      column_add_advanceGrad, tickStart_primary, tickStart_secondary]
  · rw [hnext, advanceGrad_toNat]

end Sys2Proof.Machine
end

section
/-! The `MS` step outside the two waits (R152), and the end of a tick by the refresh's answer (R167, R168, R149). -/

namespace Sys2Proof.Machine

variable {s : State}

theorem msStep_of_submit (h : s.seq = .submit) : msStep s = s := by
  simp [msStep, h]

theorem msStep_of_refresh (h : s.seq = .refresh) : msStep s = s := by
  simp [msStep, h]

/-- Settles O42: neither wait runs in `Submit` or `Refresh`. -/
theorem msIsIdleWhileSubmittingOrRefreshing : Obligations.MsIsIdleWhileSubmittingOrRefreshing := by
  rintro s (h | h)
  · exact congrArg _ (msStep_of_submit h)
  · exact congrArg _ (msStep_of_refresh h)

theorem answerDiag_eq_ite (res : SinkAnswer) (d : Diag) (info : BitVec 6) :
    answerDiag res d info = if res = .err then [.diag d info] else [] := by
  cases res <;> rfl

/-- The sink's answer to an outstanding refresh is never refused (R192). -/
theorem react_refresh_of_seq (res : SinkAnswer) (h : s.seq = .refresh) :
    react (.refresh res) s = .next (refreshStep res s) := if_pos h

/-- Settles O50: the answer runs `refreshStep`, which is `endTick` after the diagnostic, and `endTick` reloads
`cadenceMs` of the mode snapshot. -/
theorem refreshEndsTheTick : Obligations.RefreshEndsTheTick := by
  intro res s h
  refine ⟨cadenceMs s.modeSnap, ?_, ?_⟩
  · cases s.modeSnap <;> rfl
  · rw [react_refresh_of_seq res h, refreshStep, answerDiag_eq_ite]
    rfl

end Sys2Proof.Machine
end

section
/-! The `SUBMIT` step (R161): the wire triple it computes, its two branches, and what an erring answer adds to it and to
the `REFRESH` step (R163). -/

namespace Sys2Proof.Machine

variable {s : State}

/-- The sink's answer to an outstanding pixel is never refused (R192). -/
theorem react_submit_of_seq (res : SinkAnswer) (h : s.seq = .submit) :
    react (.submit res) s = .next (submitStep res s) := if_pos h

/-- The wire triple is the scaled green, red and blue, from the top (R161, R162). -/
theorem currentPixel_eq_rgb (s : State) :
    currentPixel s = rgb (scale (green (s.frame.entry s.pixIdx)) s.brtSnap)
      (scale (red (s.frame.entry s.pixIdx)) s.brtSnap) (scale (blue (s.frame.entry s.pixIdx)) s.brtSnap) :=
  wireOrder_rgb _ _ _

/-- A field of `PIXOUT` below its index is a channel of the wire triple (R38). -/
theorem pixOut_channels (s : State) :
    (s.pixIdx ++ currentPixel s).extractLsb' 16 8 = scale (green (s.frame.entry s.pixIdx)) s.brtSnap ∧
    (s.pixIdx ++ currentPixel s).extractLsb' 8 8 = scale (red (s.frame.entry s.pixIdx)) s.brtSnap ∧
    (s.pixIdx ++ currentPixel s).extractLsb' 0 8 = scale (blue (s.frame.entry s.pixIdx)) s.brtSnap := by
  rw [currentPixel_eq_rgb]
  exact ⟨(extract_within _ _ 16 8 (by decide)).trans (red_rgb _ _ _),
    (extract_within _ _ 8 8 (by decide)).trans (green_rgb _ _ _),
    (extract_within _ _ 0 8 (by decide)).trans (blue_rgb _ _ _)⟩

/-- A pixel before the last: the index advances and the tick stays in `Submit`. -/
theorem submitStep_of_lt (res : SinkAnswer) (h : s.pixIdx.toNat < 63) :
    submitStep res s = { s with
      pixOut := s.pixIdx ++ currentPixel s, pixIdx := s.pixIdx + 1#6
      trace := s.trace ++ (wirePixel s.frame s.brtSnap s.pixIdx ::
        answerDiag res .sinkPixelError s.pixIdx) } := by
  rw [submitStep_eq]
  exact if_pos h

/-- The last pixel: the lock wait begins. -/
theorem submitStep_of_not_lt (res : SinkAnswer) (h : ¬ s.pixIdx.toNat < 63) :
    submitStep res s = { s with
      pixOut := s.pixIdx ++ currentPixel s, lockMs := 0#7, seq := .lockWait
      trace := s.trace ++ (wirePixel s.frame s.brtSnap s.pixIdx ::
        answerDiag res .sinkPixelError s.pixIdx) } := by
  rw [submitStep_eq]
  exact if_neg h

/-- Settles O44: the triple is `currentPixel`, whose channels `scale_toNat` evaluates; `PIXOUT` holds it below the
index, and the two clauses of the index are the two branches of `submitStep`. -/
theorem submitOutputsOnePixel : Obligations.SubmitOutputsOnePixel := by
  intro res s hseq
  obtain ⟨h1, h2, h3⟩ := pixOut_channels s
  rw [react_submit_of_seq res hseq, ← answerDiag_eq_ite]
  refine ⟨_, _, _, s.pixIdx ++ currentPixel s, scale_toNat _ _, scale_toNat _ _, scale_toNat _ _,
    extract_above _ _, h1, h2, h3, fun hlt => ⟨s.pixIdx + 1#6, ?_, ?_⟩, fun hlast => ?_⟩
  · exact BitVec.toNat_add_of_lt (show s.pixIdx.toNat + 1 < 2 ^ 6 by omega)
  · rw [submitStep_of_lt res hlt, wirePixel]
  · rw [submitStep_of_not_lt res (by omega), wirePixel]

/-- R163, for a pixel. -/
theorem submitStep_err (s : State) :
    submitStep .err s = (submitStep .ok s).emit [.diag .sinkPixelError s.pixIdx] := by
  by_cases h : s.pixIdx.toNat < 63
  · simp [submitStep_of_lt _ h, answerDiag, State.emit]
  · simp [submitStep_of_not_lt _ h, answerDiag, State.emit]

/-- R163, for the refresh. -/
theorem refreshStep_err (s : State) :
    refreshStep .err s = (refreshStep .ok s).emit [.diag .sinkRefreshError 0#6] := by
  simp [refreshStep, endTick, answerDiag, State.emit]

/-- Settles O45: with either answer the step is the same but for the diagnostic emitted last. -/
theorem sinkErrorsOnlyAddADiagnostic : Obligations.SinkErrorsOnlyAddADiagnostic := by
  refine ⟨fun s h => ⟨submitStep .ok s, react_submit_of_seq .ok h, ?_⟩,
    fun s h => ⟨refreshStep .ok s, react_refresh_of_seq .ok h, ?_⟩⟩
  · rw [react_submit_of_seq .err h, submitStep_err, State.emit]
  · rw [react_refresh_of_seq .err h, refreshStep_err, State.emit]

end Sys2Proof.Machine
end

section
/-! The grant of the hardware-refresh lock: wanted in `LockWait` (R165), ignored elsewhere (R169). -/

namespace Sys2Proof.Machine

variable {s : State}

theorem grantStep_of_lockWait (h : s.seq = .lockWait) :
    grantStep s = { s with seq := .refresh, trace := s.trace ++ [.refresh] } := by
  simp [grantStep, h, State.emit]

theorem grantStep_of_ne (h : s.seq ≠ .lockWait) : grantStep s = s := by
  obtain ⟨hl, -⟩ | ⟨-, hs⟩ := grantStep_cases s
  · exact absurd hl h
  · exact hs

/-- The 100th pulse of a lock wait gives the wait up (R166). -/
theorem msStep_timeout (h : s.seq = .lockWait) (hms : 99 ≤ s.lockMs.toNat) :
    msStep s = endTick (s.emit [.diag .hardwareRefreshTimeout 0#6]) := by
  have hms' : ¬ s.lockMs.toNat < 99 := by omega
  simp [msStep, h, msInLockWait, hms']

/-- Settles O46: a timeout goes back to `Wait`, where `lock_req` is 0 and a grant is one of those ignored. -/
theorem grantIssuesTheRefresh : Obligations.GrantIssuesTheRefresh := by
  refine ⟨fun s h => congrArg _ (grantStep_of_lockWait h), fun s h => congrArg _ (grantStep_of_ne h),
    fun s t h hms hreact => ?_⟩
  obtain rfl : msStep s = t := Host.Outcome.next.inj hreact
  have hwait : (msStep s).seq = .wait := by rw [msStep_timeout h hms, endTick_seq]
  exact ⟨by simp [lockReq, hwait], congrArg _ (grantStep_of_ne (by simp [hwait]))⟩

end Sys2Proof.Machine
end

section
/-! Which words are illegal (R82, R187): no opcode is that of the top byte, or the opcode's format has a `ZERO` bit set
in the word. -/

namespace Sys2Proof

variable {w : Word}

theorem Opcode.mem_all (op : Opcode) : op ∈ Opcode.all := by
  cases op <;> decide

theorem decode_of_unknown_opcode (h : ∀ op : Opcode, w.extractLsb' 56 8 ≠ op.code) :
    decode w = .error .unknownOpcode := by
  have hnone : Opcode.ofCode (w.extractLsb' 56 8) = none :=
    Option.eq_none_iff_forall_ne_some.2 fun op hop => h op (code_of_ofCode hop).symm
  simp [decode, hnone]

/-- A word with no opcode that it has both the code and clear `ZERO` fields of is illegal, for one of two reasons. -/
theorem exists_decode_eq_error
    (h : ∀ op : Opcode, w.extractLsb' 56 8 = op.code → w &&& op.format.zeroMask ≠ 0#64) :
    ∃ e, decode w = .error e := by
  by_cases hop : ∃ op : Opcode, w.extractLsb' 56 8 = op.code
  · obtain ⟨op, hop⟩ := hop
    exact ⟨.zeroBitSet, decode_of_zero_set hop (h op hop)⟩
  · exact ⟨.unknownOpcode, decode_of_unknown_opcode (not_exists.1 hop)⟩

/-- The code of each opcode with the `ZERO` bits of its format, in the order of R80. -/
def zeroTable : List (BitVec 8 × Word) :=
  Opcode.all.map fun op => (op.code, op.format.zeroMask)

theorem mem_zeroTable {z : BitVec 8 × Word} :
    z ∈ zeroTable ↔ ∃ op : Opcode, (op.code, op.format.zeroMask) = z := by
  simp [zeroTable, Opcode.mem_all]

end Sys2Proof

namespace Sys2Proof.Machine

variable {w : Word}

theorem acceptWord_of_decode_error {e : DecodeError} (h : decode w = .error e) (s : State) :
    acceptWord w s = .next (s.emit [.response ⟨.illegalCommand, 0#32, true⟩]) := by
  simp [acceptWord, h, raise_eq]

/-- Settles O4: the statement's list is `zeroTable`, one row per opcode. With no row of its code and clear `ZERO` fields
a word does not decode; with one it decodes to the operands of that row's opcode. -/
theorem illegalWordsAreRefused : Obligations.IllegalWordsAreRefused := by
  refine ⟨fun w s h => ?_, fun w h => ?_⟩
  · obtain ⟨_, he⟩ := exists_decode_eq_error fun op => h _ (mem_zeroTable.2 ⟨op, rfl⟩)
    exact acceptWord_of_decode_error he s
  · obtain ⟨z, hz, hop, hclear⟩ := h
    obtain ⟨op, rfl⟩ := mem_zeroTable.1 hz
    have hdec : decode w = .ok (operandsOf op w) := decode_of_zero_clear hop hclear
    exact ⟨_, hdec, acceptWord_of_decode hdec⟩

end Sys2Proof.Machine
end

section
/-! The encoder and the decoder are inverse (R71, R82, R83). The `ZERO` fields of a format are read as fields, so that
both directions are about reading and joining fields of one word. -/

namespace Sys2Proof

variable {w : Word} {op : Opcode}

/-! ### `ZERO` fields -/

/-- The `ZERO` fields of R71, each as its lowest bit and its length. -/
def Format.zeroFields : Format → List (Nat × Nat)
  | .z => [(0, 56)]
  | .c => [(40, 16), (0, 16)]
  | .p => [(0, 16)]
  | .a => [(0, 40)]
  | .b => [(0, 48)]
  | .s => [(0, 40)]
  | .h => [(52, 4), (0, 24)]
  | .l => [(51, 5)]

theorem Format.getLsbD_zeroMask (f : Format) (i : Fin 64) :
    f.zeroMask.getLsbD i = f.zeroFields.any fun z => decide (z.1 ≤ i.val ∧ i.val < z.1 + z.2) := by
  revert i
  cases f <;> decide

theorem Format.zeroField_le (f : Format) : ∀ z ∈ f.zeroFields, z.1 + z.2 ≤ 64 := by
  cases f <;> decide

/-- The mask is clear in a word exactly when each `ZERO` field reads 0. -/
theorem and_zeroMask_eq_zero_iff (f : Format) :
    w &&& f.zeroMask = 0#64 ↔ ∀ z ∈ f.zeroFields, w.extractLsb' z.1 z.2 = 0#z.2 := by
  constructor
  · intro h z hz
    refine BitVec.eq_of_getLsbD_eq fun i hi => ?_
    have hlt : z.1 + i < 64 := by have := f.zeroField_le z hz; omega
    have hmask : f.zeroMask.getLsbD (z.1 + i) = true :=
      (f.getLsbD_zeroMask ⟨z.1 + i, hlt⟩).trans (List.any_eq_true.2 ⟨z, hz, by simp [hi]⟩)
    simpa [hi, hmask] using congrArg (·.getLsbD (z.1 + i)) h
  · intro h
    refine BitVec.eq_of_getLsbD_eq fun i hi => ?_
    cases hmask : f.zeroMask.getLsbD i with
    | false => simp [hmask]
    | true =>
      obtain ⟨z, hz, hin⟩ := List.any_eq_true.1 ((f.getLsbD_zeroMask ⟨i, hi⟩).symm.trans hmask)
      have hin : z.1 ≤ i ∧ i < z.1 + z.2 := of_decide_eq_true hin
      have hbit := congrArg (·.getLsbD (i - z.1)) (h z hz)
      simpa [hmask, show i - z.1 < z.2 by omega, show z.1 + (i - z.1) = i by omega] using hbit

/-- The decoder, said once: the opcode by the top byte, the `ZERO` fields clear, the operands read off. -/
theorem decode_eq_ok_iff {i : Instr} :
    decode w = .ok i ↔
      ∃ op : Opcode, w.extractLsb' 56 8 = op.code ∧ w &&& op.format.zeroMask = 0#64 ∧ operandsOf op w = i := by
  constructor
  · intro h
    unfold decode at h
    split at h
    · cases h
    · rename_i op hop
      split at h
      · exact ⟨op, (code_of_ofCode hop).symm, ‹_›, Except.ok.inj h⟩
      · cases h
  · rintro ⟨op, hop, hz, rfl⟩
    exact decode_of_zero_clear hop hz

@[simp] theorem opcode_operandsOf (op : Opcode) (w : Word) : (operandsOf op w).opcode = op := by
  cases op <;> rfl

/-! ### Decoding an encoding -/

theorem encode_opcode_field (i : Instr) : (encode i).extractLsb' 56 8 = i.opcode.code := extract_above _ _

/-- Each operand is read where the encoder puts it. -/
theorem operandsOf_encode (i : Instr) : operandsOf i.opcode (encode i) = i := by
  cases i <;>
    simp (disch := omega) only [operandsOf, encode, Instr.opcode, Instr.operandBits, Nat.reduceSub,
      BitVec.extractLsb'_append_eq_of_add_le, BitVec.extractLsb'_append_eq_of_le, BitVec.extractLsb'_eq_self]

/-- The encoder leaves every `ZERO` field clear. -/
theorem encode_zero_clear (i : Instr) : encode i &&& i.opcode.format.zeroMask = 0#64 := by
  rw [and_zeroMask_eq_zero_iff]
  cases i <;>
    simp (disch := omega) only [encode, Instr.opcode, Instr.operandBits, Opcode.format, Format.zeroFields,
      List.forall_mem_cons, List.not_mem_nil, false_imp_iff, implies_true, Nat.reduceSub,
      BitVec.extractLsb'_append_eq_of_add_le, BitVec.extractLsb'_append_eq_of_le, BitVec.extractLsb'_zero, and_self]

/-- Settles O1: the decoder finds the opcode in the top byte, no `ZERO` bit set, and each operand at its place. -/
theorem decodeInvertsEncode : Obligations.DecodeInvertsEncode := fun i =>
  (decode_of_zero_clear (encode_opcode_field i) (encode_zero_clear i)).trans (congrArg _ (operandsOf_encode i))

/-! ### Encoding a decoding -/

/-- The operand fields of R71, as `zeroFields`. -/
def Format.operandFields : Format → List (Nat × Nat)
  | .z => []
  | .c => [(16, 24)]
  | .p => [(48, 8), (40, 8), (16, 24)]
  | .a => [(48, 8), (40, 8)]
  | .b => [(48, 8)]
  | .s => [(48, 8), (40, 8)]
  | .h => [(40, 12), (32, 8), (24, 8)]
  | .l => [(48, 3), (24, 24), (0, 24)]

/-- `OP`, the `ZERO` fields and the operand fields leave no bit of a word out. -/
theorem Format.fields_cover (f : Format) (i : Fin 64) :
    ∃ z ∈ (56, 8) :: (f.zeroFields ++ f.operandFields), z.1 ≤ i.val ∧ i.val < z.1 + z.2 := by
  revert i
  cases f <;> decide

/-- Two words that agree on every field of a format are equal. -/
theorem eq_of_fields_eq {f : Format} {w' : Word}
    (h : ∀ z ∈ (56, 8) :: (f.zeroFields ++ f.operandFields),
      w.extractLsb' z.1 z.2 = w'.extractLsb' z.1 z.2) : w = w' := by
  refine BitVec.eq_of_getLsbD_eq fun i hi => ?_
  obtain ⟨z, hz, hlo, hhi⟩ := f.fields_cover ⟨i, hi⟩
  have hlo : z.1 ≤ i := hlo
  have hhi : i < z.1 + z.2 := hhi
  have hbit := congrArg (·.getLsbD (i - z.1)) (h z hz)
  simpa [show i - z.1 < z.2 by omega, show z.1 + (i - z.1) = i by omega] using hbit

/-- The operands of a command are the operand fields of its word. -/
theorem operandFields_eq_of_operandsOf_eq {w' : Word} (h : operandsOf op w = operandsOf op w') :
    ∀ z ∈ op.format.operandFields, w.extractLsb' z.1 z.2 = w'.extractLsb' z.1 z.2 := by
  cases op <;> simp_all [operandsOf, Opcode.format, Format.operandFields]

/-- Settles O2: the word and the encoding of what it decodes to agree on the opcode, on the `ZERO` fields, which are
clear in both, and on the operand fields. -/
theorem decodedWordsAreCanonical : Obligations.DecodedWordsAreCanonical := by
  intro w i h
  obtain ⟨op, hop, hz, rfl⟩ := decode_eq_ok_iff.1 h
  have hop' := encode_opcode_field (operandsOf op w)
  have hz' := encode_zero_clear (operandsOf op w)
  have hoperands := operandsOf_encode (operandsOf op w)
  rw [opcode_operandsOf] at hop' hz' hoperands
  rw [and_zeroMask_eq_zero_iff] at hz hz'
  refine eq_of_fields_eq (f := op.format) fun z hz₀ => ?_
  rcases List.mem_cons.1 hz₀ with rfl | hz₀
  · rw [hop, hop']
  · rcases List.mem_append.1 hz₀ with hz₀ | hz₀
    · rw [hz z hz₀, hz' z hz₀]
    · exact operandFields_eq_of_operandsOf_eq hoperands z hz₀

/-! ### Match and mask -/

theorem and_opBits (w : Word) : w &&& 0xFF00000000000000#64 = w.extractLsb' 56 8 ++ 0#56 := by
  have hsplit : w.extractLsb' 56 8 ++ w.extractLsb' 0 56 = w :=
    (BitVec.extractLsb'_append_extractLsb'_eq_extractLsb' rfl).trans BitVec.extractLsb'_eq_self
  calc w &&& 0xFF00000000000000#64
      = (w.extractLsb' 56 8 ++ w.extractLsb' 0 56) &&& (BitVec.allOnes 8 ++ 0#56) :=
        congrArg (· &&& _) hsplit.symm
    _ = w.extractLsb' 56 8 ++ 0#56 := by rw [BitVec.and_append, BitVec.and_allOnes, BitVec.and_zero]

/-- `cw & mask = match` compares the top byte with the opcode and the `ZERO` bits with 0 (R88). -/
theorem and_mask_eq_matchWord_iff :
    w &&& op.mask = op.matchWord ↔ w.extractLsb' 56 8 = op.code ∧ w &&& op.format.zeroMask = 0#64 := by
  have hzmask : op.format.zeroMask.extractLsb' 56 8 = 0#8 := by cases op <;> decide
  have hzero : op.matchWord &&& op.format.zeroMask = 0#64 := by cases op <;> decide
  have habsorb : op.mask &&& op.format.zeroMask = op.format.zeroMask := by cases op <;> decide
  have hsplit : w &&& op.mask = (w.extractLsb' 56 8 ++ 0#56) ||| (w &&& op.format.zeroMask) := by
    rw [Opcode.mask, BitVec.and_or_distrib_left, and_opBits]
  constructor
  · intro h
    constructor
    · have htop := congrArg (·.extractLsb' 56 8) (hsplit.symm.trans h)
      simpa only [BitVec.extractLsb'_or, BitVec.extractLsb'_and, hzmask, BitVec.and_zero, BitVec.or_zero,
        Opcode.matchWord, extract_above] using htop
    · rw [← habsorb, ← BitVec.and_assoc, h, hzero]
  · rintro ⟨hop, hz⟩
    rw [hsplit, hop, hz, BitVec.or_zero, Opcode.matchWord]

/-- The words of a row are those that decode to a command of its opcode. -/
theorem and_mask_eq_matchWord_iff_decode :
    w &&& op.mask = op.matchWord ↔ ∃ i, decode w = .ok i ∧ i.opcode = op := by
  rw [and_mask_eq_matchWord_iff]
  constructor
  · rintro ⟨hop, hz⟩
    exact ⟨operandsOf op w, decode_of_zero_clear hop hz, opcode_operandsOf op w⟩
  · rintro ⟨i, hdec, rfl⟩
    obtain ⟨op, hop, hz, rfl⟩ := decode_eq_ok_iff.1 hdec
    rw [opcode_operandsOf]
    exact ⟨hop, hz⟩

/-- The rows of R88, one per opcode in the order of R80. -/
def maskTable : List (Opcode × Word × Word) :=
  Opcode.all.map fun op => (op, op.matchWord, op.mask)

theorem mem_maskTable {row : Opcode × Word × Word} :
    row ∈ maskTable ↔ ∃ op : Opcode, (op, op.matchWord, op.mask) = row := by
  simp [maskTable, Opcode.mem_all]

/-- Settles O3: the statement's table is `maskTable`. A word is illegal exactly when it decodes to no command, of
whatever opcode. -/
theorem maskAndMatchSelectTheRow : Obligations.MaskAndMatchSelectTheRow := by
  have hrow : ∀ row ∈ maskTable, ∀ w : Word,
      w &&& row.2.2 = row.2.1 ↔ ∃ i, decode w = .ok i ∧ i.opcode = row.1 := fun row hr w => by
    obtain ⟨op, rfl⟩ := mem_maskTable.1 hr
    exact and_mask_eq_matchWord_iff_decode
  refine ⟨hrow, fun w => ⟨?_, fun h => ?_⟩⟩
  · rintro ⟨e, he⟩ row hr hmatch
    obtain ⟨i, hi, -⟩ := (hrow row hr w).1 hmatch
    rw [he] at hi
    cases hi
  · refine exists_decode_eq_error fun op hop hz => ?_
    exact h _ (mem_maskTable.2 ⟨op, rfl⟩) (and_mask_eq_matchWord_iff.2 ⟨hop, hz⟩)

/-- Settles O5: each word of the table is the encoding of the command beside it. -/
theorem assemblerTableWordsDecode : Obligations.AssemblerTableWordsDecode :=
  ⟨decodeInvertsEncode (.setpix 2#8 5#8 0x10FF80#24), decodeInvertsEncode (.fill 0xFF0000#24),
    decodeInvertsEncode (.getpix 7#8 7#8), decodeInvertsEncode .getall, decodeInvertsEncode (.setmode 1#8),
    decodeInvertsEncode (.setpri 0xFF8000#24), decodeInvertsEncode (.setsec 0x0040FF#24),
    decodeInvertsEncode (.setbrt 128#8), decodeInvertsEncode (.scale 128#8 128#8),
    decodeInvertsEncode (.hsv2rgb 960#12 255#8 255#8),
    decodeInvertsEncode (.blend 3#3 0xFF0000#24 0x0000FF#24),
    decodeInvertsEncode (.wireord 0x112233#24), decodeInvertsEncode .render⟩

end Sys2Proof
end

section
/-! What a presented command word does to the step (R9, R40, R59), by whether beats are pending. -/

namespace Sys2Proof.Machine

variable {s t : State} {w : Word}

theorem react_cmd_of_nil (h : s.respQ = []) : react (.cmd w) s = acceptWord w s := by
  simp [react, commandStep, h]

/-- While beats are pending the word goes back to the queue's head and a beat leaves (log 5). -/
theorem react_cmd_of_cons {b : Beat} {q : List Beat} (h : s.respQ = b :: q) :
    react (.cmd w) s = .next { s with
      inputs := .cmd w :: s.inputs, respQ := q, trace := s.trace ++ [.response b] } := by
  simp [react, commandStep, h, deliverBeat_cons h, State.emit]

/-- A queued word is taken back unchanged while beats are pending: the step delivers one beat and that is all. -/
theorem step_cmd_of_pending {rest : List Event} {b : Beat} {q : List Beat} (hi : s.inputs = .cmd w :: rest)
    (hq : s.respQ = b :: q) : step s = .next { s with respQ := q, trace := s.trace ++ [.response b] } := by
  rw [step_cons hi, react_cmd_of_cons (s := { s with inputs := rest }) hq, ← hi]

theorem step_cmd_of_decode {rest : List Event} {i : Instr} (hi : s.inputs = .cmd w :: rest)
    (hq : s.respQ = []) (hdec : decode w = .ok i) : step s = exec i { s with inputs := rest } := by
  rw [step_cons hi, react_cmd_of_nil (s := { s with inputs := rest }) hq, acceptWord_of_decode hdec]

@[simp] theorem commandWord_toNat (w : Word) : commandWord 64 w.toNat = w := by
  rw [commandWord, Nat.mod_eq_of_lt w.isLt, BitVec.ofNat_toNat, BitVec.setWidth_eq]

/-- Settles O6: the queued word is accepted and decoded. `withFetchWord` queues a word before the others on a free
port, and decoding inverts encoding. -/
theorem stepRunsTheDecodedCommand : Obligations.StepRunsTheDecodedCommand := by
  refine ⟨fun s cw rest i => step_cmd_of_decode, fun s i => ?_⟩
  exact step_cmd_of_decode (s := s.withFetchWord 64 (encode i).toNat)
    (by rw [State.withFetchWord, commandWord_toNat, presentWord]) rfl (decodeInvertsEncode i)

/-- Settles O7: the two cases of `takeFrom`. -/
theorem stepReactsToTheNextEvent : Obligations.StepReactsToTheNextEvent :=
  ⟨fun _ _ _ => step_cons, fun _ => step_nil⟩

/-- Settles O8: both events deliver the first beat; the word stays queued. -/
theorem pendingBeatsHoldTheNextCommand : Obligations.PendingBeatsHoldTheNextCommand := by
  refine ⟨fun s cw rest b q => step_cmd_of_pending, fun s rest b q hi hq => ?_⟩
  rw [step_cons hi]
  exact congrArg _ (deliverBeat_cons (s := { s with inputs := rest }) hq)

end Sys2Proof.Machine
end

section
/-! The invariant (R45): each transition keeps it, so every step does. -/

namespace Sys2Proof.Machine

variable {s t : State}

theorem inv_resetWith (straps : Straps) : Inv (State.resetWith straps) where
  fb := wf_nil
  mode := Mode.code_toNat_le_four _
  modeSnap := Mode.code_toNat_le_four _
  hueRange := Nat.zero_lt_succ 2879
  hueStep := Nat.zero_mod 16
  waitMs := Nat.zero_le 500
  lockMs := Nat.zero_le 99
  pending := ⟨[], 64, rfl⟩

/-- Settles O58: `State.reset` is the reset state for one setting of the straps. -/
theorem resetMeetsTheInvariant : Obligations.ResetMeetsTheInvariant := fun straps =>
  ⟨inv_resetWith straps, inv_resetWith Config.straps⟩

/-! ### Updates the invariant does not speak of -/

theorem Inv.emit (h : Inv s) (os : List Output) : Inv (s.emit os) := { h with }

theorem Inv.withEnvironment (h : Inv s) (inputs : List Event) (envIdx : Nat) :
    Inv { s with inputs := inputs, envIdx := envIdx } := { h with }

theorem Inv.withSeq (h : Inv s) (seq : Seq) : Inv { s with seq := seq } := { h with }

/-! ### The sequencer's transitions -/

theorem inv_resetStep (straps : Straps) (s : State) : Inv (resetStep straps s) := { inv_resetWith straps with }

/-- The hue goes round in steps of 16, a divisor of 2880 (R28, R144). -/
theorem advanceHue_range (off : Hue) : (advanceHue off).toNat < 2880 := by
  rw [advanceHue_toNat]
  omega

theorem advanceHue_step {off : Hue} (h : off.toNat % 16 = 0) : (advanceHue off).toNat % 16 = 0 := by
  rw [advanceHue_toNat]
  omega

theorem Inv.startTick (h : Inv s) : Inv (startTick s) where
  fb := h.fb
  mode := h.mode
  modeSnap := h.mode
  hueRange := by
    rw [startTick_hueOffset]
    split
    · exact advanceHue_range _
    · exact h.hueRange
  hueStep := by
    rw [startTick_hueOffset]
    split
    · exact advanceHue_step h.hueStep
    · exact h.hueStep
  waitMs := by simp
  lockMs := h.lockMs
  pending := h.pending

theorem cadenceMs_le (m : Mode) : (cadenceMs m).toNat ≤ 500 := by
  cases m <;> decide

theorem Inv.endTick (h : Inv s) : Inv (endTick s) :=
  { h with waitMs := cadenceMs_le s.modeSnap, lockMs := Nat.zero_le 99 }

theorem Inv.msStep (h : Inv s) : Inv (msStep s) := by
  obtain ⟨-, hs⟩ | ⟨-, -, hs⟩ | ⟨-, hw, hs⟩ | ⟨-, hl, hs⟩ | ⟨-, -, hs⟩ := msStep_cases s <;> rw [hs]
  · exact h
  · exact h.startTick
  · have hsub : (s.waitMs - 1#9).toNat = s.waitMs.toNat - 1 :=
      BitVec.toNat_sub_of_le (show 1 ≤ s.waitMs.toNat by omega)
    exact { h with waitMs := hsub.trans_le (by have := h.waitMs; omega) }
  · have hadd : (s.lockMs + 1#7).toNat = s.lockMs.toNat + 1 :=
      BitVec.toNat_add_of_lt (show s.lockMs.toNat + 1 < 2 ^ 7 by omega)
    exact { h with lockMs := hadd.trans_le (by omega) }
  · exact (h.emit _).endTick

theorem Inv.grantStep (h : Inv s) : Inv (grantStep s) := by
  obtain ⟨-, hs⟩ | ⟨-, hs⟩ := grantStep_cases s <;> rw [hs]
  · exact (h.withSeq _).emit _
  · exact h

theorem Inv.grantWithMsStep (h : Inv s) (g : Bool) : Inv (grantWithMsStep g s) := by
  obtain hs | ⟨hs, -⟩ := grantWithMsStep_cases g s <;> rw [hs]
  · exact h.grantStep.msStep
  · exact h.msStep.grantStep

theorem Inv.submitStep (h : Inv s) (res : SinkAnswer) : Inv (submitStep res s) := by
  by_cases hlt : s.pixIdx.toNat < 63
  · rw [submitStep_of_lt res hlt]
    exact { h with }
  · rw [submitStep_of_not_lt res hlt]
    exact { h with lockMs := Nat.zero_le 99 }

theorem Inv.refreshStep (h : Inv s) (res : SinkAnswer) : Inv (refreshStep res s) := (h.emit _).endTick

/-! ### The response port and the commands -/

/-- What is pending stays the rest of the same snapshot. -/
theorem Inv.deliverBeat (h : Inv s) : Inv (deliverBeat s) := by
  cases hq : s.respQ with
  | nil => rwa [deliverBeat_nil hq]
  | cons b q =>
    obtain ⟨m, k, hk⟩ := h.pending
    have hrest : q = (getallBeats m).drop (k + 1) := by rw [← List.tail_drop, ← hk, hq, List.tail_cons]
    rw [deliverBeat_cons hq]
    exact { h with pending := ⟨m, k + 1, hrest⟩ }

/-- A command keeps the invariant where the port lets it in, with nothing pending. -/
theorem Inv.exec {i : Instr} (h : Inv s) (hq : s.respQ = []) (hexec : exec i s = .next t) : Inv t := by
  obtain ⟨_, _, _, hs⟩ | ⟨_, hs⟩ | ⟨_, _, _, _, _, ha, hs⟩ | ⟨_, _, hs⟩ | ⟨_, hs⟩ | ⟨_, _, _, _, hs⟩ | ⟨_, _, hs⟩ |
    ⟨_, _, hs⟩ | ⟨_, _, hs⟩ | ⟨_, _, hs⟩ := exec_cases i s <;>
    (rw [hs] at hexec; obtain rfl := Host.Outcome.next.inj hexec)
  · exact h.emit _
  · exact h.emit _
  · exact { h with fb := wf_write _ _ _ (pixelIndex_lt ha) h.fb }
  · exact { h with fb := wf_fill _ _ h.fb }
  · exact { h with pending := ⟨s.fb, 0, by simp [hq]⟩ }
  · exact { h with mode := Mode.code_toNat_le_four _ }
  · exact { h with }
  · exact { h with }
  · exact { h with }
  · exact h.startTick.emit _

theorem Inv.acceptWord {w : Word} (h : Inv s) (hq : s.respQ = []) (hw : acceptWord w s = .next t) : Inv t := by
  obtain ⟨_, -, hs⟩ | ⟨i, -, hs⟩ := acceptWord_cases w s <;> rw [hs] at hw
  · obtain rfl := Host.Outcome.next.inj hw
    exact h.emit _
  · exact h.exec hq hw

theorem Inv.react {e : Event} (h : Inv s) (he : react e s = .next t) : Inv t := by
  obtain ⟨straps, -, rfl⟩ | ⟨w, -, hq, hw⟩ | ⟨w, b, q, -, -, rfl⟩ | ⟨-, rfl⟩ | ⟨-, rfl⟩ | ⟨res, -, -, rfl⟩ |
    ⟨-, rfl⟩ | ⟨res, -, -, rfl⟩ | ⟨g, -, rfl⟩ := react_cases he
  · exact inv_resetStep straps s
  · exact h.acceptWord hq hw
  · exact h.deliverBeat.withEnvironment _ _
  · exact h.deliverBeat
  · exact h.msStep
  · exact h.submitStep res
  · exact h.grantStep
  · exact h.refreshStep res
  · exact h.grantWithMsStep g

/-- Settles O59: a step is its event's reaction, and every reaction keeps the invariant. -/
theorem stepKeepsTheInvariant : Obligations.StepKeepsTheInvariant := by
  intro s t h hstep
  obtain ⟨inputs, envIdx, -, hreact⟩ := step_eq_react s
  exact (h.withEnvironment inputs envIdx).react (hreact.symm.trans hstep)

end Sys2Proof.Machine
end

section
/-! What each command answers and writes, said once per command and per outcome of its check (R104 to R107, R120 to
R133, R150). `SETMODE` and the colour units without a check stand above. -/

namespace Sys2Proof.Machine

variable (s : State) {row col : Byte} {a : Nat}

theorem exec_setpix_of_some (c : Color) (h : pixelIndex row col = some a) :
    exec (.setpix row col c) s
      = .next ({ s with fb := Memory.write s.fb a c }.emit [.response ⟨.ok, 0#32, true⟩]) := by
  simp [exec, execSetpix, h, respond_eq]

theorem exec_setpix_of_none (c : Color) (h : pixelIndex row col = none) :
    exec (.setpix row col c) s = .next (s.emit [.response ⟨.outOfRange, 0#32, true⟩]) := by
  simp [exec, execSetpix, h, raise_eq]

theorem exec_getpix_of_some (h : pixelIndex row col = some a) :
    exec (.getpix row col) s = .next (s.emit [.response ⟨.ok, colorData (Memory.read s.fb a), true⟩]) := by
  simp [exec, execGetpix, h, respond_eq]

theorem exec_getpix_of_none (h : pixelIndex row col = none) :
    exec (.getpix row col) s = .next (s.emit [.response ⟨.outOfRange, 0#32, true⟩]) := by
  simp [exec, execGetpix, h, raise_eq]

theorem exec_fill (c : Color) :
    exec (.fill c) s = .next ({ s with fb := Memory.fill s.fb c }.emit [.response ⟨.ok, 0#32, true⟩]) := rfl

theorem exec_getall : exec .getall s = .next { s with respQ := s.respQ ++ getallBeats s.fb } := rfl

theorem exec_setpri (c : Color) :
    exec (.setpri c) s = .next ({ s with primary := c }.emit [.response ⟨.ok, 0#32, true⟩]) := rfl

theorem exec_setsec (c : Color) :
    exec (.setsec c) s = .next ({ s with secondary := c }.emit [.response ⟨.ok, 0#32, true⟩]) := rfl

theorem exec_setbrt (v : Byte) :
    exec (.setbrt v) s = .next ({ s with brightness := v }.emit [.response ⟨.ok, 0#32, true⟩]) := rfl

theorem exec_hsv2rgb_of_lt {h : Hue} (sat v : Byte) (hh : h.toNat < 2880) :
    exec (.hsv2rgb h sat v) s = .next (s.emit [.response ⟨.ok, colorData (hsvToRgb h sat v), true⟩]) := by
  simp [exec, execHsv2rgb, hueLegal, hh, respond_eq]

theorem exec_hsv2rgb_of_ge {h : Hue} (sat v : Byte) (hh : 2880 ≤ h.toNat) :
    exec (.hsv2rgb h sat v) s = .next (s.emit [.response ⟨.domainError, 0#32, true⟩]) := by
  simp [exec, execHsv2rgb, hueLegal, hh, raise_eq]

variable {s} in
theorem exec_render_of_wait (h : s.seq = .wait) :
    exec .render s = .next ((startTick s).emit [.response ⟨.ok, 0#32, true⟩]) := by
  simp [exec, execRender, h, respond_eq]

variable {s} in
theorem exec_render_of_ne (h : s.seq ≠ .wait) :
    exec .render s = .next (s.emit [.response ⟨.busy, 0#32, true⟩]) := by
  simp [exec, execRender, h, raise_eq]

/-- Settles O17: a hue is legal or not. -/
theorem hsv2rgbCommandAnswersTheColour : Obligations.Hsv2rgbCommandAnswersTheColour := fun _ sat v s =>
  ⟨exec_hsv2rgb_of_lt s sat v, exec_hsv2rgb_of_ge s sat v⟩

/-- Settles O23: such a pair addresses no pixel. -/
theorem outOfRangeCoordinatesAreRefused : Obligations.OutOfRangeCoordinatesAreRefused := fun _ _ c s h =>
  ⟨exec_setpix_of_none s c (pixelIndex_of_ge h), exec_getpix_of_none s (pixelIndex_of_ge h)⟩

/-- Settles O25: the pair addresses pixel `row*8 + col`. -/
theorem getpixAnswersThePixel : Obligations.GetpixAnswersThePixel := fun _ _ s hrow hcol =>
  exec_getpix_of_some s (pixelIndex_of_lt hrow hcol)

/-- Settles O29: one spec lemma per command. -/
theorem colourAndBrightnessCommandsWriteTheirRegister :
    Obligations.ColourAndBrightnessCommandsWriteTheirRegister := fun c v s =>
  ⟨exec_setpri s c, exec_setsec s c, exec_setbrt s v⟩

end Sys2Proof.Machine
end

section
/-! What an accepted word is answered (R40, R180): one beat with the status of its check, a refusal writing nothing; or
the pending beats of `GETALL`. -/

namespace Sys2Proof.Machine

variable {s : State} {i : Instr}

/-- The status a command is answered with, from its checks (R180). `GETALL` is never refused. -/
def statusOf (i : Instr) (s : State) : Status :=
  match i with
  | .setpix row col _ => if 8 ≤ row.toNat ∨ 8 ≤ col.toNat then .outOfRange else .ok
  | .getpix row col => if 8 ≤ row.toNat ∨ 8 ≤ col.toNat then .outOfRange else .ok
  | .setmode val => if 5 ≤ val.toNat then .unknownMode else .ok
  | .hsv2rgb h _ _ => if 2880 ≤ h.toNat then .domainError else .ok
  | .render => if s.seq = .wait then .ok else .busy
  | .fill _ | .getall | .setpri _ | .setsec _ | .setbrt _ | .scale _ _ | .blend _ _ _ | .wireord _ => .ok

/-- The statuses a command produces (R180, R186). -/
theorem statusOf_produced (i : Instr) (s : State) :
    statusOf i s = .ok ∨ statusOf i s = .outOfRange ∨ statusOf i s = .unknownMode ∨
      statusOf i s = .domainError ∨ statusOf i s = .busy := by
  cases i with
  | setpix | getpix | setmode | hsv2rgb | render =>
    rw [statusOf]
    split <;> simp
  | fill | getall | setpri | setsec | setbrt | scale | blend | wireord => exact .inl rfl

/-- The result is a next state reached with one last beat of status `st`, the pending beats as they were; and if `st`
refuses, the beat carries 0 and is all that happened. -/
def AnswersWith (st : Status) (s : State) (r : Result) : Prop :=
  ∃ t b, r = .next t ∧ b.status = st ∧ b.last = true ∧ t.trace = s.trace ++ [.response b] ∧ t.respQ = s.respQ ∧
    (st ≠ .ok → b.data = 0#32 ∧ t = { s with trace := s.trace ++ [.response b] })

theorem answersWith_refusal (st : Status) (s : State) :
    AnswersWith st s (.next (s.emit [.response ⟨st, 0#32, true⟩])) :=
  ⟨_, _, rfl, rfl, rfl, rfl, rfl, fun _ => ⟨rfl, rfl⟩⟩

theorem answersWith_ok {u : State} (d : BitVec 32) (htrace : u.trace = s.trace) (hq : u.respQ = s.respQ) :
    AnswersWith .ok s (.next (u.emit [.response ⟨.ok, d, true⟩])) :=
  ⟨_, _, rfl, rfl, rfl, congrArg (· ++ _) htrace, hq, fun h => absurd rfl h⟩

/-- Every command but `GETALL` answers with the status of its check. -/
theorem exec_answersWith (s : State) (hi : i ≠ .getall) : AnswersWith (statusOf i s) s (exec i s) := by
  cases i with
  | setpix row col c =>
    by_cases hp : 8 ≤ row.toNat ∨ 8 ≤ col.toNat
    · rw [statusOf, if_pos hp, exec_setpix_of_none s c (pixelIndex_of_ge hp)]
      exact answersWith_refusal _ s
    · rw [statusOf, if_neg hp, exec_setpix_of_some s c (pixelIndex_of_lt (by omega) (by omega))]
      exact answersWith_ok _ rfl rfl
  | fill c => exact answersWith_ok _ rfl rfl
  | getpix row col =>
    by_cases hp : 8 ≤ row.toNat ∨ 8 ≤ col.toNat
    · rw [statusOf, if_pos hp, exec_getpix_of_none s (pixelIndex_of_ge hp)]
      exact answersWith_refusal _ s
    · rw [statusOf, if_neg hp, exec_getpix_of_some s (pixelIndex_of_lt (by omega) (by omega))]
      exact answersWith_ok _ rfl rfl
  | getall => exact absurd rfl hi
  | setmode val =>
    by_cases hv : 5 ≤ val.toNat
    · rw [statusOf, if_pos hv, exec_setmode_of_modeOfCode_eq_none s (modeOfCode_eq_none_of_four_lt hv)]
      exact answersWith_refusal _ s
    · obtain ⟨m, hm⟩ := Mode.exists_toNat_eq_code (show val.toNat ≤ 4 by omega)
      rw [statusOf, if_neg hv, exec_setmode_of_modeOfCode_eq_some s (modeOfCode_eq_some_iff.2 hm)]
      exact answersWith_ok _ rfl rfl
  | setpri c => exact answersWith_ok _ rfl rfl
  | setsec c => exact answersWith_ok _ rfl rfl
  | setbrt v => exact answersWith_ok _ rfl rfl
  | scale v b => exact answersWith_ok _ rfl rfl
  | hsv2rgb h sat v =>
    by_cases hh : 2880 ≤ h.toNat
    · rw [statusOf, if_pos hh, exec_hsv2rgb_of_ge s sat v hh]
      exact answersWith_refusal _ s
    · rw [statusOf, if_neg hh, exec_hsv2rgb_of_lt s sat v (by omega)]
      exact answersWith_ok _ rfl rfl
  | blend n a b => exact answersWith_ok _ rfl rfl
  | wireord c => exact answersWith_ok _ rfl rfl
  | render =>
    by_cases hw : s.seq = .wait
    · rw [statusOf, if_pos hw, exec_render_of_wait hw]
      exact answersWith_ok _ rfl rfl
    · rw [statusOf, if_neg hw, exec_render_of_ne hw]
      exact answersWith_refusal _ s

/-- An accepted word is `GETALL`'s, or answered with one beat whose status is a produced one. -/
theorem acceptWord_answers (w : Word) (s : State) :
    (decode w = .ok .getall ∧ acceptWord w s = .next { s with respQ := s.respQ ++ getallBeats s.fb }) ∨
    (decode w ≠ .ok .getall ∧ ∃ st, st ≠ .invalidChannelValue ∧ AnswersWith st s (acceptWord w s)) := by
  cases hdec : decode w with
  | error e =>
    rw [acceptWord_of_decode_error hdec]
    exact .inr ⟨by simp, .illegalCommand, by simp, answersWith_refusal _ s⟩
  | ok i =>
    rw [acceptWord_of_decode hdec]
    by_cases hi : i = .getall
    · subst hi
      exact .inl ⟨rfl, exec_getall s⟩
    · refine .inr ⟨by simpa using hi, statusOf i s, fun h => ?_, exec_answersWith s hi⟩
      simpa [h] using statusOf_produced i s

/-- Settles O9: `acceptWord_answers` with nothing pending before. -/
theorem everyWordIsAnswered : Obligations.EveryWordIsAnswered := by
  intro w s hq
  obtain ⟨hdec, hs⟩ | ⟨hdec, st, -, t, b, hs, -, hlast, htrace, hrespQ, -⟩ := acceptWord_answers w s
  · exact ⟨_, hs, .inr ⟨hdec, rfl, by simp [hq, getallBeats_length]⟩⟩
  · exact ⟨t, hs, .inl ⟨hdec, hrespQ.trans hq, b, hlast, htrace⟩⟩

/-- Settles O10: the beat added to the trace is the answer's, and `GETALL` adds none. -/
theorem refusedWordsDoNothing : Obligations.RefusedWordsDoNothing := by
  intro w s t b hw htrace
  obtain ⟨-, hs⟩ | ⟨-, st, hst, t', b', hs, rfl, -, htrace', -, hrefusal⟩ := acceptWord_answers w s
  · obtain rfl := Host.Outcome.next.inj (hs.symm.trans hw)
    simp at htrace
  · obtain rfl := Host.Outcome.next.inj (hs.symm.trans hw)
    obtain rfl : b' = b := by simpa using htrace'.symm.trans htrace
    exact ⟨hst, hrefusal⟩

/-! ### The causes of each status -/

theorem statusOf_eq_ok_iff :
    statusOf i s = .ok ↔ i.wellFormed = true ∧ (i = .render → s.seq = .wait) := by
  cases i <;> simp [statusOf, Instr.wellFormed, Nat.lt_succ_iff]

theorem statusOf_eq_outOfRange_iff :
    statusOf i s = .outOfRange ↔ ∃ row col, (8 ≤ row.toNat ∨ 8 ≤ col.toNat) ∧
      ((∃ c, i = .setpix row col c) ∨ i = .getpix row col) := by
  cases i <;> simp [statusOf, ite_eq_iff, or_iff_not_imp_left]

theorem statusOf_eq_unknownMode_iff :
    statusOf i s = .unknownMode ↔ ∃ val, i = .setmode val ∧ 5 ≤ val.toNat := by
  cases i <;> simp [statusOf, ite_eq_iff]

theorem statusOf_eq_domainError_iff :
    statusOf i s = .domainError ↔ ∃ h sat v, i = .hsv2rgb h sat v ∧ 2880 ≤ h.toNat := by
  cases i <;> simp [statusOf, ite_eq_iff]

theorem statusOf_eq_busy_iff : statusOf i s = .busy ↔ i = .render ∧ s.seq ≠ .wait := by
  cases i <;> simp [statusOf, ite_eq_iff]

theorem statusOf_code (i : Instr) (s : State) :
    (statusOf i s).code = 0#4 ∨ (statusOf i s).code = 1#4 ∨ (statusOf i s).code = 2#4 ∨
      (statusOf i s).code = 5#4 ∨ (statusOf i s).code = 6#4 := by
  obtain h | h | h | h | h := statusOf_produced i s <;> simp [h, Status.code]

theorem getallBeats_status (m : Memory) : ∀ b ∈ getallBeats m, b.status = .ok := by
  simp [getallBeats]

/-- Settles O11: a command's status is `statusOf`, whose causes the lemmas above give one by one. -/
theorem statusFollowsTheChecks : Obligations.StatusFollowsTheChecks := by
  refine ⟨fun i s hi => ?_, fun s => ⟨_, exec_getall s, getallBeats_status s.fb⟩, fun w s ⟨e, hdec⟩ => ?_,
    ⟨rfl, rfl, rfl, rfl, rfl, rfl, rfl⟩, rfl, rfl, rfl⟩
  · obtain ⟨t, b, hs, hst, -, htrace, -, hrefusal⟩ := exec_answersWith s hi
    rw [← hst] at hrefusal
    refine ⟨t, b, hs, htrace, ?_⟩
    rw [hst]
    exact ⟨statusOf_eq_ok_iff, statusOf_eq_outOfRange_iff, statusOf_eq_unknownMode_iff,
      statusOf_eq_domainError_iff, statusOf_eq_busy_iff, statusOf_code i s, hst ▸ hrefusal⟩
  · exact ⟨_, acceptWord_of_decode_error hdec s, rfl, rfl⟩

end Sys2Proof.Machine
end

section
/-! The FrameBuffer commands that store or read all they address (R120, R121, R123). -/

namespace Sys2Proof.Machine

/-- Settles O22: one write to the memory at the addressed pixel. -/
theorem setpixStoresOnePixel : Obligations.SetpixStoresOnePixel := by
  refine ⟨fun row col => pixelIndex_of_lt, fun row col c s a ha => ⟨_, exec_setpix_of_some s c ha, ?_, ?_, ?_⟩⟩
  · rw [read_write, if_pos rfl]
  · exact fun j hj => by rw [read_write, if_neg hj]
  · exact wf_write _ _ _ (pixelIndex_lt ha)

/-- Settles O24: `Memory.fill` writes the pixels below 64. -/
theorem fillStoresEveryPixel : Obligations.FillStoresEveryPixel := fun c s =>
  ⟨_, exec_fill s c, read_fill s.fb c, wf_fill s.fb c⟩

/-- The fields of a `GETALL` beat's data (R85, R123). -/
theorem pixelData_fields (k : Nat) (c : Color) :
    (pixelData k c).extractLsb' 30 2 = 0#2 ∧ (pixelData k c).extractLsb' 27 3 = BitVec.ofNat 3 (k / 8) ∧
    (pixelData k c).extractLsb' 24 3 = BitVec.ofNat 3 (k % 8) ∧ (pixelData k c).extractLsb' 0 24 = c :=
  ⟨(extract_beyond _ _ 6 2).trans ((extract_beyond _ _ 3 2).trans (extract_above _ _)),
    (extract_beyond _ _ 3 3).trans (extract_middle _ _ _), extract_middle _ _ _,
    BitVec.extractLsb'_append_eq_right⟩

/-- Settles O26: beat `k` of `getallBeats` carries `pixelData k`, whose row and column fit in their fields. -/
theorem getallSnapshotsEveryPixel : Obligations.GetallSnapshotsEveryPixel := by
  refine fun s => ⟨_, exec_getall s, getallBeats_length s.fb, fun k hk =>
    ⟨_, getallBeats_getElem? s.fb k hk, rfl, decide_eq_true_iff, ?_⟩⟩
  obtain ⟨hzero, hrow, hcol, hpixel⟩ := pixelData_fields k (Memory.read s.fb k)
  refine ⟨hzero, ?_, ?_, hpixel⟩
  · rw [hrow, BitVec.toNat_ofNat]
    omega
  · rw [hcol, BitVec.toNat_ofNat]
    omega

variable {s : State}

/-- A word behind `q.length` pending beats waits for as many steps; they deliver the beats in order. -/
theorem stepN_pending {w : Word} {rest : List Event} (hi : s.inputs = .cmd w :: rest) (q : List Beat)
    (hq : s.respQ = q) :
    stepN q.length s = some { s with respQ := [], trace := s.trace ++ q.map Output.response } := by
  induction q generalizing s with
  | nil =>
    rw [List.length_nil, List.map_nil, List.append_nil, ← hq]
    rfl
  | cons b q ih =>
    rw [List.length_cons, stepN_succ_of_step (step_cmd_of_pending hi hq),
      ih (s := { s with respQ := q, trace := s.trace ++ [.response b] }) hi rfl]
    simp

/-- Settles O27: the first step runs the `GETALL`, the other 64 deliver its beats to the waiting word. -/
theorem getallResponseCompletesFirst : Obligations.GetallResponseCompletesFirst := by
  intro s w rest hq hi
  have hgetall : step s = .next { s with inputs := .cmd w :: rest, respQ := getallBeats s.fb } := by
    rw [step_cmd_of_decode hi hq (decodeInvertsEncode .getall), exec_getall]
    simp [hq]
  have hrest := stepN_pending (s := { s with inputs := .cmd w :: rest, respQ := getallBeats s.fb }) rfl _ rfl
  rw [getallBeats_length] at hrest
  rw [stepN_succ_of_step hgetall, hrest, hq]

end Sys2Proof.Machine
end

section
/-! Who writes what (R30, R56, R134, R135, R148): a command only the register it owns, and outside a `RESET` and an
accepted word no event touches the registers and pixels of the host. -/

namespace Sys2Proof.Machine

variable {s t : State}

/-- Settles O30: each command's one write is of a register it owns. -/
theorem commandsWriteOnlyWhatTheyOwn : Obligations.CommandsWriteOnlyWhatTheyOwn := by
  intro i s t h
  obtain ⟨_, _, _, hs⟩ | ⟨_, hs⟩ | ⟨_, _, _, _, rfl, _, hs⟩ | ⟨_, rfl, hs⟩ | ⟨rfl, hs⟩ | ⟨_, _, rfl, _, hs⟩ |
    ⟨_, rfl, hs⟩ | ⟨_, rfl, hs⟩ | ⟨_, rfl, hs⟩ | ⟨rfl, _, hs⟩ := exec_cases i s <;>
    (obtain rfl := Host.Outcome.next.inj (hs.symm.trans h)
     simp [Instr.opcode, State.phaseRegs, State.seqRegs])

/-- The registers and the pixels that host commands write (R24 to R27, R39). -/
def State.hostRegs (s : State) : Memory × Mode × Color × Color × Byte := (s.fb, s.displayRegs)

@[simp] theorem deliverBeat_hostRegs (s : State) : (deliverBeat s).hostRegs = s.hostRegs := by
  unfold deliverBeat
  split <;> rfl

@[simp] theorem msStep_hostRegs (s : State) : (msStep s).hostRegs = s.hostRegs := by
  obtain ⟨-, hs⟩ | ⟨-, -, hs⟩ | ⟨-, -, hs⟩ | ⟨-, -, hs⟩ | ⟨-, -, hs⟩ := msStep_cases s <;> rw [hs] <;> rfl

@[simp] theorem grantStep_hostRegs (s : State) : (grantStep s).hostRegs = s.hostRegs := by
  obtain ⟨-, hs⟩ | ⟨-, hs⟩ := grantStep_cases s <;> rw [hs]
  rfl

@[simp] theorem grantWithMsStep_hostRegs (g : Bool) (s : State) :
    (grantWithMsStep g s).hostRegs = s.hostRegs := by
  obtain hs | ⟨hs, -⟩ := grantWithMsStep_cases g s <;> simp [hs]

@[simp] theorem submitStep_hostRegs (res : SinkAnswer) (s : State) :
    (submitStep res s).hostRegs = s.hostRegs := by
  by_cases h : s.pixIdx.toNat < 63
  · rw [submitStep_of_lt res h]
    rfl
  · rw [submitStep_of_not_lt res h]
    rfl

@[simp] theorem refreshStep_hostRegs (res : SinkAnswer) (s : State) :
    (refreshStep res s).hostRegs = s.hostRegs := rfl

/-- An event leaves what the host writes alone, unless it is a `RESET` or an accepted word. -/
theorem react_hostRegs {e : Event} (h : react e s = .next t) :
    (∃ straps, e = .rst straps ∧ t = resetStep straps s) ∨
    (∃ w, e = .cmd w ∧ s.respQ = [] ∧ acceptWord w s = .next t) ∨ t.hostRegs = s.hostRegs := by
  obtain hr | hw | ⟨w, b, q, -, -, rfl⟩ | ⟨-, rfl⟩ | ⟨-, rfl⟩ | ⟨res, -, -, rfl⟩ | ⟨-, rfl⟩ | ⟨res, -, -, rfl⟩ |
    ⟨g, -, rfl⟩ := react_cases h
  · exact .inl hr
  · exact .inr (.inl hw)
  · exact .inr (.inr (deliverBeat_hostRegs s))
  · exact .inr (.inr (deliverBeat_hostRegs s))
  · exact .inr (.inr (msStep_hostRegs s))
  · exact .inr (.inr (submitStep_hostRegs res s))
  · exact .inr (.inr (grantStep_hostRegs s))
  · exact .inr (.inr (refreshStep_hostRegs res s))
  · exact .inr (.inr (grantWithMsStep_hostRegs g s))

/-- The same for a step, whose event is taken from a state with the same registers and port. -/
theorem step_hostRegs (h : step s = .next t) :
    (∃ straps, (takeEvent s).1 = .rst straps ∧ t.mode = .static ∧ t.fb = []) ∨
    (∃ w i u, (takeEvent s).1 = .cmd w ∧ s.respQ = [] ∧ decode w = .ok i ∧ u.hostRegs = s.hostRegs ∧
      exec i u = .next t) ∨ t.hostRegs = s.hostRegs := by
  obtain ⟨inputs, envIdx, -, hreact⟩ := step_eq_react s
  obtain ⟨straps, he, rfl⟩ | ⟨w, he, hq, hw⟩ | hsame := react_hostRegs (hreact.symm.trans h)
  · exact .inl ⟨straps, he, rfl, rfl⟩
  · obtain ⟨-, -, hs⟩ | ⟨i, hdec, hs⟩ := acceptWord_cases w { s with inputs := inputs, envIdx := envIdx }
    · obtain rfl := Host.Outcome.next.inj (hs.symm.trans hw)
      exact .inr (.inr rfl)
    · exact .inr (.inl ⟨w, i, { s with inputs := inputs, envIdx := envIdx }, he, hq, hdec, rfl, hs.symm.trans hw⟩)
  · exact .inr (.inr hsame)

/-- A command that changes the mode is a `SETMODE` of the new mode's code. -/
theorem exec_changes_mode {i : Instr} (h : exec i s = .next t) (hm : t.mode ≠ s.mode) :
    ∃ val, i = .setmode val ∧ val.toNat = t.mode.code.toNat := by
  have hop : i.opcode = .setmode := (commandsWriteOnlyWhatTheyOwn i s t h).1 hm
  obtain ⟨val, rfl⟩ : ∃ val, i = .setmode val := by cases i <;> simp_all [Instr.opcode]
  cases hv : modeOfCode val with
  | none =>
    obtain rfl := Host.Outcome.next.inj ((exec_setmode_of_modeOfCode_eq_none s hv).symm.trans h)
    exact absurd rfl hm
  | some m =>
    obtain rfl := Host.Outcome.next.inj ((exec_setmode_of_modeOfCode_eq_some s hv).symm.trans h)
    exact ⟨val, rfl, modeOfCode_code hv⟩

/-- Settles O31: by a `RESET`, or by an accepted word, whose command is then a `SETMODE`. -/
theorem modeChangesOnlyBySetmode : Obligations.ModeChangesOnlyBySetmode := by
  intro s t h hm
  obtain ⟨straps, he, hstatic, -⟩ | ⟨w, i, u, he, hq, hdec, hu, hexec⟩ | hsame := step_hostRegs h
  · exact .inl ⟨straps, he, hstatic⟩
  · have humode : u.mode = s.mode := congrArg (·.2.1) hu
    obtain ⟨val, rfl, hval⟩ := exec_changes_mode hexec (humode ▸ hm)
    exact .inr ⟨w, val, he, hq, hdec, hval⟩
  · exact absurd (congrArg (·.2.1) hsame) hm

/-- Settles O32: by a `RESET`, or by an accepted word, whose command then owns the FrameBuffer. -/
theorem frameBufferChangesOnlyByItsCommands : Obligations.FrameBufferChangesOnlyByItsCommands := by
  intro s t h hfb
  obtain ⟨straps, he, -, hempty⟩ | ⟨w, i, u, he, hq, hdec, hu, hexec⟩ | hsame := step_hostRegs h
  · exact .inl ⟨straps, he, hempty⟩
  · have hufb : u.fb = s.fb := congrArg Prod.fst hu
    obtain ⟨-, -, -, -, hop, -⟩ := commandsWriteOnlyWhatTheyOwn i u t hexec
    exact .inr ⟨w, i, he, hq, hdec, hop (hufb ▸ hfb)⟩
  · exact absurd (congrArg Prod.fst hsame) hfb

end Sys2Proof.Machine
end

section
/-! The laws of `scale`, `wire_order` and `blend` (R102, R103, R111), and the floor of a quotient of naturals, which is
what every exact rational definition comes to. -/

namespace Sys2Proof.Machine

theorem scale_le_left (x y : Byte) : (scale x y).toNat ≤ x.toNat := by
  rw [scale_toNat]
  refine Nat.div_le_of_le_mul ?_
  rw [Nat.mul_comm]
  exact Nat.mul_le_mul_right _ (Nat.le_of_lt_succ y.isLt)

theorem scale_mono_right (x : Byte) {y z : Byte} (h : y.toNat ≤ z.toNat) :
    (scale x y).toNat ≤ (scale x z).toNat := by
  rw [scale_toNat, scale_toNat]
  exact Nat.div_le_div_right (Nat.mul_le_mul_left _ h)

/-- Settles O13: the bound by the second argument is that by the first, by symmetry. -/
theorem scaleLaws : Obligations.ScaleLaws := fun x y =>
  ⟨scale_comm x y, le_min (scale_le_left x y) (scale_comm x y ▸ scale_le_left y x),
    fun _ => scale_mono_right x, scale_full_right x, scale_zero_right x⟩

/-- Settles O21: `wire_order` only swaps the first two channels, and the scaler works channel by channel. -/
theorem wireOrderIsAnInvolutionAndCommutes : Obligations.WireOrderIsAnInvolutionAndCommutes := by
  intro c br
  constructor
  · rw [wireOrder_eq c, wireOrder_rgb, rgb_channels]
  · rw [scaleColor, wireOrder_rgb, wireOrder_eq c, scaleColor, red_rgb, green_rgb, blue_rgb]

/-- The machine's channel is the truncated exact value (R102, R108). -/
theorem blendChannel_eq_reference (x y : Byte) (n : BitVec 3) :
    ((blendChannel x y n).toNat : ℤ)
      = Reference.blendChannel (x.toNat : ℚ) (y.toNat : ℚ) ((n.toNat : ℚ) / 7) := by
  have hn : n.toNat ≤ 7 := Nat.le_of_lt_succ n.isLt
  have hexact : (x.toNat : ℚ) * (1 - (n.toNat : ℚ) / 7) + (y.toNat : ℚ) * ((n.toNat : ℚ) / 7)
      = ((x.toNat * (7 - n.toNat) + y.toNat * n.toNat : ℕ) : ℚ) / (7 : ℕ) := by
    push_cast [Nat.cast_sub hn]
    ring
  rw [Reference.blendChannel, hexact, Rat.floor_natCast_div_natCast, blendChannel_toNat, Int.natCast_div]

/-- An interpolation lies between the two channels. -/
theorem blendChannel_between (x y : Byte) (n : BitVec 3) :
    min x.toNat y.toNat ≤ (blendChannel x y n).toNat ∧ (blendChannel x y n).toNat ≤ max x.toNat y.toNat := by
  have hn : 7 - n.toNat + n.toNat = 7 := Nat.sub_add_cancel (Nat.le_of_lt_succ n.isLt)
  have hconst (a : Nat) : a * (7 - n.toNat) + a * n.toNat = a * 7 := by rw [← Nat.mul_add, hn]
  rw [blendChannel_toNat]
  constructor
  · rw [Nat.le_div_iff_mul_le (by decide), ← hconst]
    exact Nat.add_le_add (Nat.mul_le_mul_right _ (min_le_left _ _)) (Nat.mul_le_mul_right _ (min_le_right _ _))
  · refine Nat.div_le_of_le_mul ?_
    rw [Nat.mul_comm 7, ← hconst]
    exact Nat.add_le_add (Nat.mul_le_mul_right _ (le_max_left _ _)) (Nat.mul_le_mul_right _ (le_max_right _ _))

/-- Settles O18: the channel laws above, and the channels of a packed colour are read back one by one. -/
theorem blendIsTheTruncatedInterpolation : Obligations.BlendIsTheTruncatedInterpolation := by
  refine ⟨fun x y n => ?_, fun a b n => ⟨red_rgb _ _ _, green_rgb _ _ _, blue_rgb _ _ _, blend_zero a b,
    blend_seven a b⟩⟩
  obtain ⟨hmin, hmax⟩ := blendChannel_between x y n
  exact ⟨blend_bound x y n, blendChannel_toNat x y n, blendChannel_eq_reference x y n, hmin, hmax,
    blendChannel_self x n⟩

end Sys2Proof.Machine
end

section
/-! `hsv_to_rgb` (R101, R111). Both the integer form and the source's definition compute three values and place them by
the sector of the hue; so the placement is named once, and the rest is the three values. -/

namespace Sys2Proof.Machine

section Placement

variable {α β : Type}

/-- The largest, the middle and the smallest value, placed by sector (R101). -/
def placeTriple (sector : Nat) (hi mid lo : α) : α × α × α :=
  if sector = 0 then (hi, mid, lo)
  else if sector = 1 then (mid, hi, lo)
  else if sector = 2 then (lo, hi, mid)
  else if sector = 3 then (lo, mid, hi)
  else if sector = 4 then (mid, lo, hi)
  else (hi, lo, mid)

/-- The same function on each of three values. -/
def mapTriple (f : α → β) (p : α × α × α) : β × β × β := (f p.1, f p.2.1, f p.2.2)

theorem mapTriple_placeTriple (f : α → β) (sector : Nat) (hi mid lo : α) :
    mapTriple f (placeTriple sector hi mid lo) = placeTriple sector (f hi) (f mid) (f lo) := by
  unfold placeTriple
  split_ifs <;> rfl

/-- In whatever order they are placed, the largest is the largest and the smallest the smallest. -/
theorem placeTriple_extremes (sector : Nat) {hi mid lo : Nat} (hlo : lo ≤ mid) (hhi : mid ≤ hi) :
    max (placeTriple sector hi mid lo).1
        (max (placeTriple sector hi mid lo).2.1 (placeTriple sector hi mid lo).2.2) = hi ∧
      min (placeTriple sector hi mid lo).1
        (min (placeTriple sector hi mid lo).2.1 (placeTriple sector hi mid lo).2.2) = lo := by
  unfold placeTriple
  split_ifs <;> (dsimp only; omega)

end Placement

/-- The channels of a colour, in the order of R6. -/
def channels (c : Color) : Byte × Byte × Byte := (red c, green c, blue c)

theorem channels_hsvPlace (sector : Nat) (hi mid lo : Byte) :
    channels (hsvPlace sector hi mid lo) = placeTriple sector hi mid lo := by
  unfold hsvPlace placeTriple
  split_ifs <;> simp [channels]

/-- The three values are bytes, so their narrowing is exact (R101). -/
theorem hsvMid_byte (j s : Nat) (v : Byte) : (BitVec.ofNat 8 (hsvMid j s v.toNat)).toNat = hsvMid j s v.toNat := by
  have := hsvMid_le j s v.toNat
  rw [BitVec.toNat_ofNat]
  omega

theorem hsvLo_byte (s v : Byte) : (BitVec.ofNat 8 (hsvLo s.toNat v.toNat)).toNat = hsvLo s.toNat v.toNat := by
  have := hsvLo_le_hsvMid 0 s.toNat v.toNat (Nat.le_of_lt_succ s.isLt)
  have := hsvMid_le 0 s.toNat v.toNat
  rw [BitVec.toNat_ofNat]
  omega

/-- The channels of a converted colour as numbers (R101). -/
theorem channels_hsvToRgb (h : Hue) (s v : Byte) :
    mapTriple BitVec.toNat (channels (hsvToRgb h s v))
      = placeTriple (h.toNat / 480) v.toNat (hsvMid (hsvFold h.toNat) s.toNat v.toNat)
          (hsvLo s.toNat v.toNat) := by
  rw [hsvToRgb, channels_hsvPlace, mapTriple_placeTriple, hsvMid_byte, hsvLo_byte]

/-- The converter on a grey and on black: the three values coincide (R111). -/
theorem hsvPlace_self (sector : Nat) (x : Byte) : hsvPlace sector x x x = rgb x x x := by
  unfold hsvPlace
  split_ifs <;> rfl

theorem hsvToRgb_zero_saturation (h : Hue) (v : Byte) : hsvToRgb h 0#8 v = rgb v v v := by
  have hmid (j : Nat) : hsvMid j 0 v.toNat = v.toNat := by
    simp only [hsvMid]
    omega
  have hlo : hsvLo 0 v.toNat = v.toNat := by
    simp only [hsvLo]
    omega
  have hs : (0#8).toNat = 0 := rfl
  rw [hsvToRgb, hs, hmid, hlo, BitVec.ofNat_toNat, BitVec.setWidth_eq, hsvPlace_self]

theorem hsvToRgb_zero_value (h : Hue) (s : Byte) : hsvToRgb h s 0#8 = 0#24 := by
  have hv : (0#8).toNat = 0 := rfl
  have hmid (j s : Nat) : hsvMid j s 0 = 0 := Nat.le_zero.1 (hsvMid_le j s 0)
  have hlo (s : Nat) : hsvLo s 0 = 0 := by simp [hsvLo]
  rw [hsvToRgb, hv, hmid, hlo, hsvPlace_self]
  rfl

/-- Settles O16: the channels are the three values placed by sector, and the three values are ordered. -/
theorem hsvChannelsLieBetweenLoAndValue : Obligations.HsvChannelsLieBetweenLoAndValue := by
  intro h s v _
  obtain ⟨hmax, hmin⟩ := placeTriple_extremes (h.toNat / 480)
    (hsvLo_le_hsvMid (hsvFold h.toNat) s.toNat v.toNat (Nat.le_of_lt_succ s.isLt))
    (hsvMid_le (hsvFold h.toNat) s.toNat v.toNat)
  rw [← channels_hsvToRgb] at hmax hmin
  exact ⟨hmax, hmin, hsvToRgb_zero_saturation h v, hsvToRgb_zero_value h s⟩

/-! ### The exact definition -/

/-- Half up of a quotient of naturals (R7). -/
theorem roundHalfUp_div (n : Nat) {d : Nat} (hd : 0 < d) :
    Reference.roundHalfUp ((n : ℚ) / d) = ((2 * n + d) / (2 * d) : ℕ) := by
  have hd' : (d : ℚ) ≠ 0 := by positivity
  have hexact : (n : ℚ) / d + 1 / 2 = ((2 * n + d : ℕ) : ℚ) / (2 * d : ℕ) := by
    push_cast
    field_simp
  rw [Reference.roundHalfUp, hexact, Rat.floor_natCast_div_natCast, Int.natCast_div]

/-- `(h/60) mod 2` at `h = H/8` (R101). -/
theorem modTwo_hue (h : Nat) : Reference.modTwo ((h : ℚ) / 8 / 60) = ((h % 960 : ℕ) : ℚ) / 480 := by
  have hfloor : ⌊(h : ℚ) / 8 / 60 / 2⌋ = ((h / 960 : ℕ) : ℤ) := by
    rw [show (h : ℚ) / 8 / 60 / 2 = (h : ℚ) / (960 : ℕ) by push_cast; ring, Rat.floor_natCast_div_natCast,
      Int.natCast_div]
  have hdiv : (h : ℚ) = 960 * (h / 960 : ℕ) + (h % 960 : ℕ) := by exact_mod_cast (Nat.div_add_mod h 960).symm
  rw [Reference.modTwo, hfloor, Int.cast_natCast]
  linarith

/-- `1 - |((h/60) mod 2) - 1| = j/480` (R101). -/
theorem second_factor (h : Nat) :
    1 - |Reference.modTwo ((h : ℚ) / 8 / 60) - 1| = (hsvFold h : ℚ) / 480 := by
  rw [modTwo_hue, hsvFold]
  by_cases ht : h % 960 ≤ 480
  · have ht' : ((h % 960 : ℕ) : ℚ) ≤ 480 := by exact_mod_cast ht
    rw [if_pos ht, abs_of_nonpos (by linarith)]
    ring
  · have ht' : (480 : ℚ) ≤ (h % 960 : ℕ) := by exact_mod_cast (Nat.le_of_not_le ht)
    rw [if_neg ht, abs_of_nonneg (by linarith), Nat.cast_sub (by omega)]
    push_cast
    ring

/-- The sector of `H/8` degrees is `H div 480` (R101). -/
theorem sectorTriple_eq_placeTriple {h : Nat} (hh : h < 2880) (c x : ℚ) :
    Reference.sectorTriple ((h : ℚ) / 8) c x = placeTriple (h / 480) c x 0 := by
  have hlt (k : Nat) : (h : ℚ) / 8 < k ↔ h < 8 * k := by
    rw [div_lt_iff₀ (by norm_num), mul_comm]
    exact_mod_cast Iff.rfl
  have h60 := hlt 60
  have h120 := hlt 120
  have h180 := hlt 180
  have h240 := hlt 240
  have h300 := hlt 300
  push_cast at h60 h120 h180 h240 h300
  simp only [Reference.sectorTriple, h60, h120, h180, h240, h300]
  split_ifs
  · rw [show h / 480 = 0 by omega]
    rfl
  · rw [show h / 480 = 1 by omega]
    rfl
  · rw [show h / 480 = 2 by omega]
    rfl
  · rw [show h / 480 = 3 by omega]
    rfl
  · rw [show h / 480 = 4 by omega]
    rfl
  · rw [show h / 480 = 5 by omega]
    rfl

/-- One channel of the source's definition, from its component of the sector (R101). -/
def exactChannel (s v q : ℚ) : ℤ :=
  Reference.roundHalfUp ((q + (v - Reference.chroma s v)) * 255)

theorem reference_hsvToRgb_eq_mapTriple (h s v : ℚ) :
    Reference.hsvToRgb h s v = mapTriple (exactChannel s v)
      (Reference.sectorTriple h (Reference.chroma s v) (Reference.second h s v)) := rfl

/-! The three values of the source's formula at `h = H/8`, `s = S/255`, `v = V/255` are those of the integer form. -/

theorem exactChannel_hi (s v : Nat) :
    exactChannel ((s : ℚ) / 255) ((v : ℚ) / 255) (Reference.chroma ((s : ℚ) / 255) ((v : ℚ) / 255)) = v := by
  have hexact : (Reference.chroma ((s : ℚ) / 255) ((v : ℚ) / 255) +
      ((v : ℚ) / 255 - Reference.chroma ((s : ℚ) / 255) ((v : ℚ) / 255))) * 255 = (v : ℚ) / (1 : ℕ) := by
    push_cast
    ring
  rw [exactChannel, hexact, roundHalfUp_div v Nat.one_pos]
  omega

theorem exactChannel_mid (h : Nat) {s : Nat} (v : Nat) (hs : s ≤ 255) :
    exactChannel ((s : ℚ) / 255) ((v : ℚ) / 255) (Reference.second ((h : ℚ) / 8) ((s : ℚ) / 255) ((v : ℚ) / 255))
      = hsvMid (hsvFold h) s v := by
  have hle : v * s * (480 - hsvFold h) ≤ 122400 * v := by
    calc v * s * (480 - hsvFold h) ≤ v * 255 * 480 :=
          Nat.mul_le_mul (Nat.mul_le_mul_left v hs) (Nat.sub_le 480 _)
      _ = 122400 * v := by ring
  have hexact : (Reference.second ((h : ℚ) / 8) ((s : ℚ) / 255) ((v : ℚ) / 255) +
      ((v : ℚ) / 255 - Reference.chroma ((s : ℚ) / 255) ((v : ℚ) / 255))) * 255
      = ((122400 * v - v * s * (480 - hsvFold h) : ℕ) : ℚ) / (122400 : ℕ) := by
    rw [Reference.second, second_factor, Reference.chroma]
    push_cast [Nat.cast_sub hle, Nat.cast_sub (hsvFold_le h)]
    ring
  rw [exactChannel, hexact, roundHalfUp_div _ (by decide), hsvMid]

theorem exactChannel_lo {s : Nat} (v : Nat) (hs : s ≤ 255) :
    exactChannel ((s : ℚ) / 255) ((v : ℚ) / 255) 0 = hsvLo s v := by
  have hexact : (0 + ((v : ℚ) / 255 - Reference.chroma ((s : ℚ) / 255) ((v : ℚ) / 255))) * 255
      = ((v * (255 - s) : ℕ) : ℚ) / (255 : ℕ) := by
    rw [Reference.chroma]
    push_cast [Nat.cast_sub hs]
    ring
  rw [exactChannel, hexact, roundHalfUp_div _ (by decide), hsvLo, Nat.mul_assoc]

/-- Settles O15: both sides place three values by the same sector, and the values agree one by one. -/
theorem hsvToRgbIsTheExactDefinition : Obligations.HsvToRgbIsTheExactDefinition := by
  intro h s v hh
  have hs : s.toNat ≤ 255 := Nat.le_of_lt_succ s.isLt
  have hmachine := congrArg (mapTriple (Nat.cast : ℕ → ℤ)) (channels_hsvToRgb h s v)
  rw [mapTriple_placeTriple] at hmachine
  rw [reference_hsvToRgb_eq_mapTriple, sectorTriple_eq_placeTriple hh, mapTriple_placeTriple, exactChannel_hi,
    exactChannel_mid h.toNat v.toNat hs, exactChannel_lo v.toNat hs]
  exact hmachine

end Sys2Proof.Machine
end

section
/-! The start of a tick (R142 to R147): the snapshot, the frame by the mode, and the phase that advances in its own
mode. Then the periods of the phases over many ticks (section 5 of `43_sequencer.md`). -/

namespace Sys2Proof.Machine

variable (rnd : Frame) {s : State}

/-- Settles O33: the two phase registers are the only fields given by a case. -/
theorem tickStartTakesTheSnapshot : Obligations.TickStartTakesTheSnapshot := by
  refine fun rnd s => ⟨rfl, ?_, ?_⟩
  · rw [tickStart_hueOffset, apply_ite BitVec.toNat, advanceHue_toNat]
  · rw [tickStart_gradOffset, apply_ite BitVec.toNat, advanceGrad_toNat]

theorem tickStart_frame_of_static (h : s.mode = .static) : (tickStart rnd s).frame = frameStatic s.fb := by
  simp [tickFrame, h]

theorem tickStart_frame_of_rainbow (h : s.mode = .rainbow) :
    (tickStart rnd s).frame = frameRainbow s.hueOffset := by
  simp [tickFrame, h]

theorem tickStart_frame_of_random (h : s.mode = .random) : (tickStart rnd s).frame = rnd := by
  simp [tickFrame, h]

theorem drawFrame_getElem (n i : Nat) (hi : i < 64) : (drawFrame n)[i] = Config.rnd (n + i) := by
  rw [drawFrame, ofFn_getElem]

/-- Settles O34: entry by entry, the frame of each of the two modes. -/
theorem staticAndRandomFrames : Obligations.StaticAndRandomFrames := by
  refine ⟨fun rnd s h i => ?_, fun rnd s => tickStart_frame_of_random rnd, fun s h i => ?_, fun s => rfl⟩
  · rw [tickStart_frame_of_static rnd h]
    exact ofFn_getElem _ _ i.isLt
  · have hframe : (startTick s).frame = drawFrame s.drawIdx := tickStart_frame_of_random _ h
    rw [hframe]
    exact drawFrame_getElem _ _ i.isLt

/-- Settles O35: the frame is `frameRainbow` of the offset, which has no colour and no memory among its arguments. -/
theorem rainbowFrame : Obligations.RainbowFrame := by
  refine ⟨fun rnd s h => ⟨fun i => ⟨rainbowHue s.hueOffset i, rainbowHue_toNat _ _, ?_⟩, ?_⟩,
    fun rnd s u hs hu hoff => ?_⟩
  · rw [tickStart_frame_of_rainbow rnd h]
    exact ofFn_getElem _ _ i.isLt
  · rw [tickStart_hueOffset, if_pos h, advanceHue_toNat]
  · rw [tickStart_frame_of_rainbow rnd hs, tickStart_frame_of_rainbow rnd hu, hoff]

/-- What a tick's frame depends on, in a mode that draws nothing. -/
theorem tickStart_frame_congr (rnd rnd' : Frame) {u : State} (hmode : s.mode ≠ .random)
    (hhost : u.hostRegs = s.hostRegs) (hphase : u.phaseRegs = s.phaseRegs) :
    (tickStart rnd u).frame = (tickStart rnd' s).frame := by
  simp only [State.hostRegs, State.displayRegs, State.phaseRegs, Prod.mk.injEq] at hhost hphase
  obtain ⟨hfb, hm, hp, hs, -⟩ := hhost
  obtain ⟨hhue, hgrad⟩ := hphase
  simp only [tickStart_frame, tickFrame, hfb, hm, hp, hs, hhue, hgrad]
  cases h : s.mode <;> simp_all

/-- Settles O55: outside Static the frame is not computed from the FrameBuffer. -/
theorem frameBufferIsHiddenOutsideStatic : Obligations.FrameBufferIsHiddenOutsideStatic := by
  intro rnd s m hmode
  have hframe : tickFrame rnd { s with fb := m } = tickFrame rnd s := by
    cases h : s.mode <;> simp_all [tickFrame]
  simp only [tickStart, hframe]

/-! ### Many ticks -/

theorem ticks_cons (rnd : Frame) (draws : List Frame) (s : State) :
    ticks (rnd :: draws) s = ticks draws (tickStart rnd s) := rfl

@[simp] theorem ticks_hostRegs (draws : List Frame) (s : State) : (ticks draws s).hostRegs = s.hostRegs := by
  induction draws generalizing s with
  | nil => rfl
  | cons rnd draws ih => exact (ih _).trans rfl

/-- The hue offset after `n` Rainbow ticks. -/
theorem ticks_hueOffset (draws : List Frame) (hmode : s.mode = .rainbow) (hhue : s.hueOffset.toNat < 2880) :
    (ticks draws s).hueOffset.toNat = (s.hueOffset.toNat + 16 * draws.length) % 2880 := by
  induction draws generalizing s with
  | nil => exact (Nat.mod_eq_of_lt hhue).symm
  | cons rnd draws ih =>
    have hstep : (tickStart rnd s).hueOffset.toNat = (s.hueOffset.toNat + 16) % 2880 := by
      rw [tickStart_hueOffset, if_pos hmode, advanceHue_toNat]
    rw [ticks_cons, ih (s := tickStart rnd s) hmode (by omega), hstep, List.length_cons]
    omega

theorem ticks_gradOffset_of_rainbow (draws : List Frame) (hmode : s.mode = .rainbow) :
    (ticks draws s).gradOffset = s.gradOffset := by
  induction draws generalizing s with
  | nil => rfl
  | cons rnd draws ih => exact (ih (s := tickStart rnd s) hmode).trans (by simp [hmode])

/-- The gradient offset after `n` Gradient ticks. -/
theorem ticks_gradOffset (draws : List Frame) (hmode : s.mode = .gradient) :
    (ticks draws s).gradOffset.toNat = (s.gradOffset.toNat + draws.length) % 8 := by
  induction draws generalizing s with
  | nil => exact (Nat.mod_eq_of_lt s.gradOffset.isLt).symm
  | cons rnd draws ih =>
    have hstep : (tickStart rnd s).gradOffset.toNat = (s.gradOffset.toNat + 1) % 8 := by
      rw [tickStart_gradOffset, if_pos hmode, advanceGrad_toNat]
    rw [ticks_cons, ih (s := tickStart rnd s) hmode, hstep, List.length_cons]
    omega

theorem ticks_hueOffset_of_gradient (draws : List Frame) (hmode : s.mode = .gradient) :
    (ticks draws s).hueOffset = s.hueOffset := by
  induction draws generalizing s with
  | nil => rfl
  | cons rnd draws ih => exact (ih (s := tickStart rnd s) hmode).trans (by simp [hmode])

/-- Settles O38: 2880 is 180 steps of 16, and 8 is 8 steps of 1. With its phase back where it was, a tick computes the
same frame; and a Checkerboard or Static tick moves no phase. -/
theorem phasePeriods : Obligations.PhasePeriods := by
  refine ⟨fun draws s hmode hhue => ⟨fun hlen => ?_, fun hpos hlt heq => ?_⟩,
    fun draws s hmode => ⟨fun hlen => ?_, fun hpos hlt heq => ?_⟩, fun rnd rnd' s hmode => ?_⟩
  · have hback : (ticks draws s).hueOffset = s.hueOffset := by
      apply BitVec.eq_of_toNat_eq
      rw [ticks_hueOffset draws hmode hhue, hlen]
      omega
    refine ⟨hback, fun rnd rnd' => tickStart_frame_congr rnd rnd' (by simp [hmode]) (ticks_hostRegs draws s) ?_⟩
    rw [State.phaseRegs, hback, ticks_gradOffset_of_rainbow draws hmode, State.phaseRegs]
  · have := ticks_hueOffset draws hmode hhue
    rw [heq] at this
    omega
  · have hback : (ticks draws s).gradOffset = s.gradOffset := by
      apply BitVec.eq_of_toNat_eq
      have := s.gradOffset.isLt
      rw [ticks_gradOffset draws hmode, hlen]
      omega
    refine ⟨hback, fun rnd rnd' => tickStart_frame_congr rnd rnd' (by simp [hmode]) (ticks_hostRegs draws s) ?_⟩
    rw [State.phaseRegs, hback, ticks_hueOffset_of_gradient draws hmode, State.phaseRegs]
  · have := ticks_gradOffset draws hmode
    rw [heq] at this
    omega
  · have hphase : (tickStart rnd' s).phaseRegs = s.phaseRegs := by
      obtain h | h := hmode <;> simp [State.phaseRegs, h]
    have hrandom : s.mode ≠ .random := by
      obtain h | h := hmode <;> simp [h]
    exact tickStart_frame_congr rnd rnd' hrandom rfl hphase

end Sys2Proof.Machine
end

section
/-! The millisecond pulse in the two waits (R141, R166), and the start of a tick by a pulse or by `RENDER` (R150). -/

namespace Sys2Proof.Machine

variable {s : State} {rest : List Event}

theorem react_ms (s : State) : react .ms s = .next (msStep s) := rfl

theorem step_ms (hi : s.inputs = .ms :: rest) : step s = .next (msStep { s with inputs := rest }) :=
  (step_cons hi).trans (react_ms _)

theorem msStep_starts (h : s.seq = .wait) (hw : s.waitMs.toNat ≤ 1) : msStep s = startTick s := by
  simp [msStep, h, msInWait, hw]

theorem msStep_counts_down (h : s.seq = .wait) (hw : 1 < s.waitMs.toNat) :
    ∃ w : BitVec 9, w.toNat = s.waitMs.toNat - 1 ∧ msStep s = { s with waitMs := w } := by
  refine ⟨s.waitMs - 1#9, BitVec.toNat_sub_of_le (show 1 ≤ s.waitMs.toNat by omega), ?_⟩
  simp [msStep, h, msInWait, Nat.not_le.2 hw]

theorem msStep_counts_up (h : s.seq = .lockWait) (hl : s.lockMs.toNat < 99) :
    ∃ l : BitVec 7, l.toNat = s.lockMs.toNat + 1 ∧ msStep s = { s with lockMs := l } := by
  refine ⟨s.lockMs + 1#7, BitVec.toNat_add_of_lt (show s.lockMs.toNat + 1 < 2 ^ 7 by omega), ?_⟩
  simp [msStep, h, msInLockWait, hl]

/-- Settles O39: the draws are `drawFrame` of the draw counter. -/
theorem renderStartsATickOrIsBusy : Obligations.RenderStartsATickOrIsBusy :=
  ⟨fun s h => ⟨drawFrame s.drawIdx, fun i => drawFrame_getElem _ _ i.isLt, exec_render_of_wait h⟩,
    fun _ => exec_render_of_ne⟩

/-- Settles O40: the two branches of the interval wait. -/
theorem msCountsDownOrStartsATick : Obligations.MsCountsDownOrStartsATick := by
  refine fun s h => ⟨fun hw => congrArg _ (msStep_starts h hw), fun hw => ?_⟩
  obtain ⟨w, hval, hs⟩ := msStep_counts_down h hw
  exact ⟨w, hval, congrArg _ hs⟩

/-- Settles O47: the two branches of the lock wait. -/
theorem msBoundsTheLockWait : Obligations.MsBoundsTheLockWait := by
  refine fun s h => ⟨fun hl => ?_, fun hl => congrArg _ (msStep_timeout h hl)⟩
  obtain ⟨l, hval, hs⟩ := msStep_counts_up h hl
  exact ⟨l, hval, congrArg _ hs⟩

/-! ### Many pulses -/

theorem stepN_succ_end {k : Nat} {u t : State} (h : stepN k s = some u) (hstep : step u = .next t) :
    stepN (k + 1) s = some t :=
  (runFrom_succ_end h).trans (stepN_succ_of_step hstep)

/-- Pulses short of the count leave the sequencer waiting, with nothing but the count changed. -/
theorem stepN_waiting (k : Nat) (hseq : s.seq = .wait) (hk : k < s.waitMs.toNat)
    (hi : s.inputs = List.replicate k .ms ++ rest) :
    ∃ w : BitVec 9, w.toNat = s.waitMs.toNat - k ∧
      stepN k s = some { s with waitMs := w, inputs := rest } := by
  induction k generalizing rest with
  | zero => exact ⟨s.waitMs, rfl, by rw [← show s.inputs = rest from hi]; rfl⟩
  | succ k ih =>
    rw [List.replicate_succ', List.append_assoc] at hi
    obtain ⟨w, hw, hrun⟩ := ih (by omega) hi
    obtain ⟨w', hw', hms⟩ :=
      msStep_counts_down (s := { s with waitMs := w, inputs := rest }) hseq (show 1 < w.toNat by omega)
    have hw' : w'.toNat = w.toNat - 1 := hw'
    exact ⟨w', by omega, stepN_succ_end hrun ((step_ms rfl).trans (congrArg _ hms))⟩

/-- Settles O41: the pulses before the `n`-th count, and the `n`-th finds 1 left. -/
theorem intervalWaitLastsItsCount : Obligations.IntervalWaitLastsItsCount := by
  intro s n rest hseq hn hpos hi
  have hwait (k : Nat) (hk : k < n) : ∃ w : BitVec 9, w.toNat = n - k ∧
      stepN k s = some { s with waitMs := w, inputs := List.replicate (n - k) .ms ++ rest } := by
    have hsplit : s.inputs = List.replicate k .ms ++ (List.replicate (n - k) .ms ++ rest) := by
      rw [hi, ← List.append_assoc, List.replicate_append_replicate, Nat.add_sub_cancel' hk.le]
    rw [← hn] at hk ⊢
    exact stepN_waiting k hseq hk (hn ▸ hsplit)
  refine ⟨fun k hk => ?_, ?_⟩
  · obtain ⟨w, hw, hrun⟩ := hwait k hk
    exact ⟨_, hrun, hseq, hw, rfl, rfl⟩
  · obtain ⟨w, hw, hrun⟩ := hwait (n - 1) (by omega)
    rw [show n - (n - 1) = 1 by omega] at hw hrun
    have hlast := stepN_succ_end hrun ((step_ms rfl).trans (congrArg _ (msStep_starts hseq hw.le)))
    rw [Nat.sub_add_cancel hpos] at hlast
    exact ⟨_, hlast, rfl, rfl, rfl, rfl, rfl⟩

/-- Pulses short of the hundredth leave the lock wait on, with nothing but the count changed. -/
theorem stepN_lockWait (k : Nat) (hseq : s.seq = .lockWait) (hk : s.lockMs.toNat + k ≤ 99)
    (hi : s.inputs = List.replicate k .ms ++ rest) :
    ∃ l : BitVec 7, l.toNat = s.lockMs.toNat + k ∧
      stepN k s = some { s with lockMs := l, inputs := rest } := by
  induction k generalizing rest with
  | zero => exact ⟨s.lockMs, rfl, by rw [← show s.inputs = rest from hi]; rfl⟩
  | succ k ih =>
    rw [List.replicate_succ', List.append_assoc] at hi
    obtain ⟨l, hl, hrun⟩ := ih (by omega) hi
    obtain ⟨l', hl', hms⟩ :=
      msStep_counts_up (s := { s with lockMs := l, inputs := rest }) hseq (show l.toNat < 99 by omega)
    have hl' : l'.toNat = l.toNat + 1 := hl'
    exact ⟨l', by omega, stepN_succ_end hrun ((step_ms rfl).trans (congrArg _ hms))⟩

/-- Settles O48: 99 pulses count, and the hundredth finds 99. -/
theorem lockWaitTimesOutAtTheHundredthPulse : Obligations.LockWaitTimesOutAtTheHundredthPulse := by
  intro s rest hseq hzero hi
  have hwait (k : Nat) (hk : k < 100) : ∃ l : BitVec 7, l.toNat = k ∧
      stepN k s = some { s with lockMs := l, inputs := List.replicate (100 - k) .ms ++ rest } := by
    have hsplit : s.inputs = List.replicate k .ms ++ (List.replicate (100 - k) .ms ++ rest) := by
      rw [hi, ← List.append_assoc, List.replicate_append_replicate, Nat.add_sub_cancel' hk.le]
    simpa [hzero] using stepN_lockWait k hseq (by simp [hzero]; omega) hsplit
  refine ⟨fun k hk => ?_, ?_⟩
  · obtain ⟨l, hl, hrun⟩ := hwait k hk
    exact ⟨_, hrun, hseq, hl, rfl⟩
  · obtain ⟨l, hl, hrun⟩ := hwait 99 (by decide)
    exact stepN_succ_end hrun ((step_ms rfl).trans (congrArg _ (msStep_timeout hseq hl.ge)))

end Sys2Proof.Machine
end

section
/-! A grant and a pulse at the same instant (R191), the transition table (R140), and a reset during a tick (R211). -/

namespace Sys2Proof.Machine

variable {s t : State} {e : Event}

/-- Settles O49: the grant leads to `Refresh`, where a pulse is idle. -/
theorem grantWinsTheTie : Obligations.GrantWinsTheTie := by
  intro g s h hl
  obtain hs | ⟨-, hno⟩ := grantWithMsStep_cases g s
  · have hrefresh : (grantStep s).seq = .refresh := by rw [grantStep_of_lockWait h]
    exact congrArg _ (hs.trans ((msStep_of_refresh hrefresh).trans (grantStep_of_lockWait h)))
  · exact absurd ⟨h, hl⟩ hno

/-- No pulse leads into a lock wait. -/
theorem msStep_seq_ne_lockWait (h : s.seq ≠ .lockWait) : (msStep s).seq ≠ .lockWait := by
  obtain ⟨-, hs⟩ | ⟨-, -, hs⟩ | ⟨-, -, hs⟩ | ⟨hl, -⟩ | ⟨hl, -⟩ := msStep_cases s
  · rwa [hs]
  · simp [hs]
  · rwa [hs]
  · exact absurd hl h
  · exact absurd hl h

/-- Outside a lock wait the grant of the pair is ignored (R169). -/
theorem grantWithMsStep_of_ne (g : Bool) (h : s.seq ≠ .lockWait) : grantWithMsStep g s = msStep s := by
  obtain hs | ⟨hs, -⟩ := grantWithMsStep_cases g s
  · rw [hs, grantStep_of_ne h]
  · rw [hs, grantStep_of_ne (msStep_seq_ne_lockWait h)]

/-- In a lock wait the grant of the pair is taken, in either order. -/
theorem grantWithMsStep_seq_of_lockWait (g : Bool) (h : s.seq = .lockWait) :
    (grantWithMsStep g s).seq = .refresh := by
  have hreact : react (.grantWithMs g) s = .next (grantWithMsStep g s) := rfl
  obtain ⟨straps, he, -⟩ | ⟨-, hseq⟩ | ⟨he, -⟩ | ⟨-, -, hne, -⟩ := react_in_lockWait h hreact
  · exact absurd he (by simp)
  · exact hseq
  · exact absurd he (by simp)
  · exact absurd rfl (hne g)

/-- A pulse changes `SEQ` only by starting a tick or by the timeout. -/
theorem msStep_changes_seq (h : (msStep s).seq ≠ s.seq) :
    (s.seq = .wait ∧ s.waitMs.toNat ≤ 1 ∧ (msStep s).seq = .submit) ∨
    (s.seq = .lockWait ∧ 99 ≤ s.lockMs.toNat ∧ (msStep s).seq = .wait) := by
  obtain ⟨-, hs⟩ | ⟨hw, hle, hs⟩ | ⟨-, -, hs⟩ | ⟨-, -, hs⟩ | ⟨hl, hge, hs⟩ := msStep_cases s
  · exact absurd (congrArg State.seq hs) h
  · exact .inl ⟨hw, hle, by simp [hs]⟩
  · exact absurd (congrArg State.seq hs) h
  · exact absurd (congrArg State.seq hs) h
  · exact .inr ⟨hl, hge, by simp [hs]⟩

/-- A word changes `SEQ` only as an accepted `RENDER` between ticks. -/
theorem acceptWord_changes_seq {w : Word} (hw : acceptWord w s = .next t) (h : t.seq ≠ s.seq) :
    s.seq = .wait ∧ decode w = .ok .render ∧ t.seq = .submit := by
  have hwait : s.seq = .wait := by
    by_contra hne
    exact h (congrArg Prod.fst (acceptWord_seqRegs hne hw))
  obtain ⟨-, -, hs⟩ | ⟨i, hdec, hs⟩ := acceptWord_cases w s
  · obtain rfl := Host.Outcome.next.inj (hs.symm.trans hw)
    exact absurd rfl h
  · have hexec := hs.symm.trans hw
    obtain ⟨-, -, -, -, -, -, hop, -⟩ := commandsWriteOnlyWhatTheyOwn i s t hexec
    have hrender : i = .render := by
      have := hop fun heq => h (congrArg Prod.fst heq)
      cases i <;> simp_all [Instr.opcode]
    subst hrender
    obtain rfl := Host.Outcome.next.inj ((exec_render_of_wait hwait).symm.trans hexec)
    exact ⟨hwait, hdec, rfl⟩

/-- Settles O43, event by event. -/
theorem sequencerTransitionTable : Obligations.SequencerTransitionTable := by
  intro e s t hreact h
  obtain ⟨straps, rfl, rfl⟩ | ⟨w, rfl, hq, hw⟩ | ⟨w, b, q, rfl, -, rfl⟩ | ⟨rfl, rfl⟩ | ⟨rfl, rfl⟩ |
    ⟨res, rfl, hs, rfl⟩ | ⟨rfl, rfl⟩ | ⟨res, rfl, hs, rfl⟩ | ⟨g, rfl, rfl⟩ := react_cases hreact
  · exact .inr (.inr (.inr (.inr (.inr (.inr ⟨rfl, straps, rfl⟩)))))
  · obtain ⟨hwait, hdec, hsubmit⟩ := acceptWord_changes_seq hw h
    exact .inr (.inl ⟨hwait, hsubmit, hq, w, rfl, hdec⟩)
  · exact absurd (congrArg Prod.fst (deliverBeat_seqRegs s)) h
  · exact absurd (congrArg Prod.fst (deliverBeat_seqRegs s)) h
  · obtain ⟨hwait, hle, hsubmit⟩ | ⟨hlock, hge, hend⟩ := msStep_changes_seq h
    · exact .inl ⟨hwait, hsubmit, hle, .inl rfl⟩
    · exact .inr (.inr (.inr (.inr (.inl ⟨hlock, hend, hge, rfl⟩))))
  · by_cases hlt : s.pixIdx.toNat < 63
    · rw [submitStep_of_lt res hlt] at h
      exact absurd rfl h
    · have hlast : s.pixIdx.toNat = 63 := by
        have := s.pixIdx.isLt
        omega
      rw [submitStep_of_not_lt res hlt]
      exact .inr (.inr (.inl ⟨hs, rfl, hlast, res, rfl⟩))
  · obtain ⟨hl, hg⟩ | ⟨-, hg⟩ := grantStep_cases s
    · exact .inr (.inr (.inr (.inl ⟨hl, by rw [hg]; rfl, .inl rfl⟩)))
    · exact absurd (congrArg State.seq hg) h
  · exact .inr (.inr (.inr (.inr (.inr (.inl ⟨hs, rfl, res, rfl⟩)))))
  · by_cases hl : s.seq = .lockWait
    · exact .inr (.inr (.inr (.inl ⟨hl, grantWithMsStep_seq_of_lockWait g hl, .inr ⟨g, rfl⟩⟩)))
    · rw [grantWithMsStep_of_ne g hl] at h ⊢
      obtain ⟨hwait, hle, hsubmit⟩ | ⟨hlock, -⟩ := msStep_changes_seq h
      · exact .inl ⟨hwait, hsubmit, hle, .inr ⟨g, rfl⟩⟩
      · exact absurd hlock hl

/-- Settles O57: a reset leads to `Wait`, where `RENDER` is welcome, and to Static mode over an empty FrameBuffer. -/
theorem resetAbandonsWhatIsGoingOn : Obligations.ResetAbandonsWhatIsGoingOn := by
  intro straps s
  refine ⟨resetStep straps s, react_rst straps s, rfl, rfl, rfl, rfl, rfl, rfl, _, exec_render_of_wait rfl, rfl, rfl,
    rfl, rfl, fun i => ?_⟩
  have hframe : (startTick (resetStep straps s)).frame = frameStatic (resetStep straps s).fb :=
    tickStart_frame_of_static (s := resetStep straps s) (drawFrame s.drawIdx) rfl
  rw [emit_frame, hframe]
  exact (ofFn_getElem _ _ i.isLt).trans (read_fb_resetStep straps s i)

end Sys2Proof.Machine
end

section
/-! The snapshot of a tick (R60, R64, R171): outside `Wait` no event but a `RESET` touches it, so every pixel that
leaves within a tick is the snapshot's own. -/

namespace Sys2Proof.Machine

variable {s t u : State} {e : Event}

/-- What a tick renders from: the frame, its brightness and its mode (R33 to R35). -/
def State.snapshot (s : State) : Frame × Byte × Mode := (s.frame, s.brtSnap, s.modeSnap)

theorem snapshot_eq_iff :
    t.snapshot = s.snapshot ↔ t.frame = s.frame ∧ t.brtSnap = s.brtSnap ∧ t.modeSnap = s.modeSnap := by
  simp [State.snapshot]

theorem snapshot_of_seqRegs (h : t.seqRegs = s.seqRegs) : t.snapshot = s.snapshot := by
  simp_all [State.seqRegs, State.snapshot]

/-- Only a pulse in `Wait` computes a frame. -/
theorem msStep_snapshot (h : s.seq ≠ .wait) : (msStep s).snapshot = s.snapshot := by
  obtain ⟨-, hs⟩ | ⟨hw, -⟩ | ⟨hw, -⟩ | ⟨-, -, hs⟩ | ⟨-, -, hs⟩ := msStep_cases s
  · rw [hs]
  · exact absurd hw h
  · exact absurd hw h
  · rw [hs]
    rfl
  · rw [hs]
    rfl

@[simp] theorem grantStep_snapshot (s : State) : (grantStep s).snapshot = s.snapshot := by
  obtain ⟨-, hs⟩ | ⟨-, hs⟩ := grantStep_cases s <;> rw [hs]
  rfl

/-- A grant does not end a tick. -/
theorem grantStep_seq_ne_wait (h : s.seq ≠ .wait) : (grantStep s).seq ≠ .wait := by
  obtain ⟨-, hs⟩ | ⟨-, hs⟩ := grantStep_cases s <;> simp [hs, h]

theorem grantWithMsStep_snapshot (g : Bool) (h : s.seq ≠ .wait) :
    (grantWithMsStep g s).snapshot = s.snapshot := by
  obtain hs | ⟨hs, -⟩ := grantWithMsStep_cases g s <;> rw [hs]
  · rw [msStep_snapshot (grantStep_seq_ne_wait h), grantStep_snapshot]
  · rw [grantStep_snapshot, msStep_snapshot h]

@[simp] theorem submitStep_snapshot (res : SinkAnswer) (s : State) :
    (submitStep res s).snapshot = s.snapshot := by
  by_cases h : s.pixIdx.toNat < 63
  · rw [submitStep_of_lt res h]
    rfl
  · rw [submitStep_of_not_lt res h]
    rfl

@[simp] theorem refreshStep_snapshot (res : SinkAnswer) (s : State) :
    (refreshStep res s).snapshot = s.snapshot := rfl

/-- During a tick only a `RESET` changes the snapshot. -/
theorem react_snapshot (h : react e s = .next t) (hseq : s.seq ≠ .wait) (hreset : notReset e) :
    t.snapshot = s.snapshot := by
  obtain ⟨straps, he, -⟩ | ⟨w, -, -, hw⟩ | ⟨w, b, q, -, -, rfl⟩ | ⟨-, rfl⟩ | ⟨-, rfl⟩ | ⟨res, -, -, rfl⟩ |
    ⟨-, rfl⟩ | ⟨res, -, -, rfl⟩ | ⟨g, -, rfl⟩ := react_cases h
  · exact absurd he (hreset straps)
  · exact snapshot_of_seqRegs (acceptWord_seqRegs hseq hw)
  · exact snapshot_of_seqRegs (deliverBeat_seqRegs s)
  · exact snapshot_of_seqRegs (deliverBeat_seqRegs s)
  · exact msStep_snapshot hseq
  · exact submitStep_snapshot res s
  · exact grantStep_snapshot s
  · exact refreshStep_snapshot res s
  · exact grantWithMsStep_snapshot g hseq

theorem step_snapshot (h : step s = .next t) (hseq : s.seq ≠ .wait) (hreset : notReset (takeEvent s).1) :
    t.snapshot = s.snapshot := by
  obtain ⟨inputs, envIdx, -, hreact⟩ := step_eq_react s
  exact react_snapshot (s := { s with inputs := inputs, envIdx := envIdx }) (hreact.symm.trans h) hseq hreset

theorem lockReq_eq_true_iff : lockReq s = true ↔ s.seq = .lockWait ∨ s.seq = .refresh := by
  unfold lockReq
  cases s.seq <;> simp

/-- Settles O51: the states that request the lock are states of a tick. -/
theorem noFrameIsComputedUnderTheLock : Obligations.NoFrameIsComputedUnderTheLock := by
  refine ⟨fun s => lockReq_eq_true_iff, fun e s t h hreset hlock => snapshot_eq_iff.1 (react_snapshot h ?_ hreset)⟩
  obtain hs | hs := lockReq_eq_true_iff.1 hlock <;> simp [hs]

/-- Settles O52: the step's event reacts in the same sequencer state. -/
theorem snapshotIsFixedDuringATick : Obligations.SnapshotIsFixedDuringATick := fun _ _ h hseq hreset =>
  snapshot_eq_iff.1 (step_snapshot h hseq hreset)

/-! ### The pixels that leave -/

/-- From `s` to `t` the trace grew, and every pixel in what was added is that of its index in `frame`, scaled by `brt`
and in wire order. -/
def EmitsPixelsOf (frame : Frame) (brt : Byte) (s t : State) : Prop :=
  ∃ os, t.trace = s.trace ++ os ∧ ∀ i c1 c2 c3, Output.setPixel i c1 c2 c3 ∈ os →
    Output.setPixel i c1 c2 c3 = wirePixel frame brt i

variable {frame : Frame} {brt : Byte}

theorem EmitsPixelsOf.of_trace_eq (h : t.trace = s.trace) : EmitsPixelsOf frame brt s t :=
  ⟨[], by simp [h], by simp⟩

/-- An output of another port is no pixel. -/
theorem EmitsPixelsOf.of_other {o : Output} (h : t.trace = s.trace ++ [o])
    (ho : ∀ i c1 c2 c3, o ≠ .setPixel i c1 c2 c3) : EmitsPixelsOf frame brt s t :=
  ⟨[o], h, fun i c1 c2 c3 hmem => absurd (List.mem_singleton.1 hmem).symm (ho i c1 c2 c3)⟩

theorem EmitsPixelsOf.trans (hst : EmitsPixelsOf frame brt s t) (htu : EmitsPixelsOf frame brt t u) :
    EmitsPixelsOf frame brt s u := by
  obtain ⟨os, hos, hpix⟩ := hst
  obtain ⟨os', hos', hpix'⟩ := htu
  refine ⟨os ++ os', by rw [hos', hos, List.append_assoc], fun i c1 c2 c3 hmem => ?_⟩
  exact (List.mem_append.1 hmem).elim (hpix i c1 c2 c3) (hpix' i c1 c2 c3)

theorem emitsPixelsOf_msStep (s : State) : EmitsPixelsOf frame brt s (msStep s) := by
  obtain ⟨-, hs⟩ | ⟨-, -, hs⟩ | ⟨-, -, hs⟩ | ⟨-, -, hs⟩ | ⟨-, -, hs⟩ := msStep_cases s <;> rw [hs]
  · exact .of_trace_eq rfl
  · exact .of_trace_eq rfl
  · exact .of_trace_eq rfl
  · exact .of_trace_eq rfl
  · exact .of_other rfl (by simp)

theorem emitsPixelsOf_grantStep (s : State) : EmitsPixelsOf frame brt s (grantStep s) := by
  obtain ⟨-, hs⟩ | ⟨-, hs⟩ := grantStep_cases s <;> rw [hs]
  · exact .of_other rfl (by simp)
  · exact .of_trace_eq rfl

theorem emitsPixelsOf_deliverBeat (s : State) : EmitsPixelsOf frame brt s (deliverBeat s) := by
  unfold deliverBeat
  split
  · exact .of_trace_eq rfl
  · exact .of_other rfl (by simp)

theorem emitsPixelsOf_refreshStep (res : SinkAnswer) (s : State) :
    EmitsPixelsOf frame brt s (refreshStep res s) := by
  cases res
  · exact .of_trace_eq (List.append_nil _)
  · exact .of_other rfl (by simp)

theorem emitsPixelsOf_acceptWord {w : Word} (h : acceptWord w s = .next t) : EmitsPixelsOf frame brt s t := by
  obtain ⟨-, hs⟩ | ⟨-, st, -, t', b, hs, -, -, htrace, -⟩ := acceptWord_answers w s
  · obtain rfl := Host.Outcome.next.inj (hs.symm.trans h)
    exact .of_trace_eq rfl
  · obtain rfl := Host.Outcome.next.inj (hs.symm.trans h)
    exact .of_other htrace (by simp)

/-- The one step that sends a pixel sends the snapshot's (R161, R162). -/
theorem emitsPixelsOf_submitStep (res : SinkAnswer) (s : State) :
    EmitsPixelsOf s.frame s.brtSnap s (submitStep res s) := by
  refine ⟨wirePixel s.frame s.brtSnap s.pixIdx :: answerDiag res .sinkPixelError s.pixIdx, ?_, ?_⟩
  · by_cases h : s.pixIdx.toNat < 63
    · rw [submitStep_of_lt res h]
    · rw [submitStep_of_not_lt res h]
  · intro i c1 c2 c3 hmem
    obtain heq | hmem := List.mem_cons.1 hmem
    · obtain rfl : i = s.pixIdx := by simp_all [wirePixel]
      exact heq
    · cases res <;> simp [answerDiag] at hmem

theorem emitsPixelsOf_react (h : react e s = .next t) : EmitsPixelsOf s.frame s.brtSnap s t := by
  obtain ⟨straps, -, rfl⟩ | ⟨w, -, -, hw⟩ | ⟨w, b, q, -, -, rfl⟩ | ⟨-, rfl⟩ | ⟨-, rfl⟩ | ⟨res, -, -, rfl⟩ |
    ⟨-, rfl⟩ | ⟨res, -, -, rfl⟩ | ⟨g, -, rfl⟩ := react_cases h
  · exact .of_trace_eq rfl
  · exact emitsPixelsOf_acceptWord hw
  · exact emitsPixelsOf_deliverBeat s
  · exact emitsPixelsOf_deliverBeat s
  · exact emitsPixelsOf_msStep s
  · exact emitsPixelsOf_submitStep res s
  · exact emitsPixelsOf_grantStep s
  · exact emitsPixelsOf_refreshStep res s
  · obtain hs | ⟨hs, -⟩ := grantWithMsStep_cases g s <;> rw [hs]
    · exact (emitsPixelsOf_grantStep s).trans (emitsPixelsOf_msStep _)
    · exact (emitsPixelsOf_msStep s).trans (emitsPixelsOf_grantStep _)

theorem emitsPixelsOf_step (h : step s = .next t) : EmitsPixelsOf s.frame s.brtSnap s t := by
  obtain ⟨inputs, envIdx, -, hreact⟩ := step_eq_react s
  exact emitsPixelsOf_react (s := { s with inputs := inputs, envIdx := envIdx }) (hreact.symm.trans h)

theorem stepN_succ_eq_some {k : Nat} (h : stepN (k + 1) s = some t) :
    ∃ u, step s = .next u ∧ stepN k u = some t := by
  rw [stepN_succ] at h
  cases hs : step s with
  | next u => exact ⟨u, rfl, by simpa [hs] using h⟩
  | fault f => simp [hs] at h
  | refused r => simp [hs] at h

/-- What `withinTick` says of the first step, and of the rest. -/
theorem withinTick_succ {k : Nat} (h : withinTick (k + 1) s) (hstep : step s = .next u) :
    s.seq ≠ .wait ∧ notReset (takeEvent s).1 ∧ withinTick k u := by
  obtain ⟨hseq, hreset⟩ := h 0 (Nat.succ_pos k) s rfl
  refine ⟨hseq, hreset, fun j hj v hv => h (j + 1) (Nat.succ_lt_succ hj) v ?_⟩
  rw [stepN_succ_of_step hstep, hv]

/-- Settles O53, by induction on the steps: each sends only pixels of its own snapshot, and that is the first one's. -/
theorem noTornFrames : Obligations.NoTornFrames := by
  intro k
  induction k with
  | zero =>
    rintro s t - ⟨⟩
    exact EmitsPixelsOf.of_trace_eq rfl
  | succ k ih =>
    intro s t htick hrun
    obtain ⟨u, hstep, hrun⟩ := stepN_succ_eq_some hrun
    obtain ⟨hseq, hreset, htick⟩ := withinTick_succ htick hstep
    obtain ⟨hframe, hbrt, -⟩ := snapshot_eq_iff.1 (step_snapshot hstep hseq hreset)
    have hrest : EmitsPixelsOf u.frame u.brtSnap u t := ih u t htick hrun
    rw [hframe, hbrt] at hrest
    exact (emitsPixelsOf_step hstep).trans hrest

end Sys2Proof.Machine
end

section
/-! A whole tick (R160, R161, R165, R167, R168, R172): the answered submissions one by one, the grant, and the answered
refresh. -/

namespace Sys2Proof.Machine

variable {s : State} {rest : List Event}

/-- What the answered submission of a pixel lets out: the pixel, then the diagnostic of an erring answer. -/
def submissionOutputs (frame : Frame) (brt : Byte) (i : BitVec 6) (res : SinkAnswer) : List Output :=
  wirePixel frame brt i :: answerDiag res .sinkPixelError i

/-- The same for pixel `p` and those after it, one per answer. -/
def tickOutputs (frame : Frame) (brt : Byte) (p : Nat) (answers : List SinkAnswer) : List Output :=
  (List.range answers.length).flatMap fun k =>
    submissionOutputs frame brt (BitVec.ofNat 6 (p + k)) (answers.getD k .ok)

@[simp] theorem tickOutputs_nil (frame : Frame) (brt : Byte) (p : Nat) : tickOutputs frame brt p [] = [] := rfl

theorem tickOutputs_cons (frame : Frame) (brt : Byte) (p : Nat) (res : SinkAnswer) (answers : List SinkAnswer) :
    tickOutputs frame brt p (res :: answers)
      = submissionOutputs frame brt (BitVec.ofNat 6 p) res ++ tickOutputs frame brt (p + 1) answers := by
  simp [tickOutputs, List.range_succ_eq_map, List.flatMap_map, Nat.add_comm, Nat.add_left_comm]

@[simp] theorem stepN_zero (s : State) : stepN 0 s = some s := rfl

/-- The step on a queued answer, before the last pixel. -/
theorem step_submit_of_lt {res : SinkAnswer} (hseq : s.seq = .submit) (hlt : s.pixIdx.toNat < 63)
    (hi : s.inputs = .submit res :: rest) :
    step s = .next { s with
      inputs := rest, pixOut := s.pixIdx ++ currentPixel s, pixIdx := s.pixIdx + 1#6
      trace := s.trace ++ submissionOutputs s.frame s.brtSnap s.pixIdx res } :=
  (step_cons hi).trans ((react_submit_of_seq (s := { s with inputs := rest }) res hseq).trans
    (congrArg _ (submitStep_of_lt (s := { s with inputs := rest }) res hlt)))

/-- The step on a queued answer, at the last pixel. -/
theorem step_submit_of_not_lt {res : SinkAnswer} (hseq : s.seq = .submit) (hlast : ¬ s.pixIdx.toNat < 63)
    (hi : s.inputs = .submit res :: rest) :
    step s = .next { s with
      inputs := rest, pixOut := s.pixIdx ++ currentPixel s, lockMs := 0#7, seq := .lockWait
      trace := s.trace ++ submissionOutputs s.frame s.brtSnap s.pixIdx res } :=
  (step_cons hi).trans ((react_submit_of_seq (s := { s with inputs := rest }) res hseq).trans
    (congrArg _ (submitStep_of_not_lt (s := { s with inputs := rest }) res hlast)))

/-- As many answers as pixels are left bring the sequencer to the lock wait; meanwhile only the pixel counter, `PIXOUT`
and the lock counter change, and the pixels leave in order. -/
theorem stepN_submissions (answers : List SinkAnswer) (hseq : s.seq = .submit)
    (hleft : s.pixIdx.toNat + answers.length = 64) (hi : s.inputs = answers.map Event.submit ++ rest) :
    ∃ i p, stepN answers.length s = some { s with
      pixIdx := i, pixOut := p, lockMs := 0#7, seq := .lockWait, inputs := rest
      trace := s.trace ++ tickOutputs s.frame s.brtSnap s.pixIdx.toNat answers } := by
  induction answers generalizing s with
  | nil => exact absurd s.pixIdx.isLt (by simp_all)
  | cons res answers ih =>
    rw [List.length_cons] at hleft ⊢
    rw [List.map_cons, List.cons_append] at hi
    by_cases hlt : s.pixIdx.toNat < 63
    · have hnext : (s.pixIdx + 1#6).toNat = s.pixIdx.toNat + 1 :=
        BitVec.toNat_add_of_lt (show s.pixIdx.toNat + 1 < 2 ^ 6 by omega)
      obtain ⟨i, p, hrun⟩ := ih (s := { s with
        inputs := answers.map Event.submit ++ rest, pixOut := s.pixIdx ++ currentPixel s
        pixIdx := s.pixIdx + 1#6
        trace := s.trace ++ submissionOutputs s.frame s.brtSnap s.pixIdx res }) hseq
        (by simp only [hnext]; omega) rfl
      refine ⟨i, p, (stepN_succ_of_step (step_submit_of_lt hseq hlt hi)).trans (hrun.trans ?_)⟩
      simp [tickOutputs_cons, hnext]
    · obtain rfl : answers = [] := List.eq_nil_of_length_eq_zero (by omega)
      refine ⟨s.pixIdx, s.pixIdx ++ currentPixel s,
        (stepN_succ_of_step (step_submit_of_not_lt hseq hlt hi)).trans ?_⟩
      simp [tickOutputs_cons]

/-- Settles O54: the submissions, the grant that ends the lock wait, and the answer that ends the tick. -/
theorem tickOutputsInOrder : Obligations.TickOutputsInOrder := by
  intro s answers res rest hseq hpix hlen hi
  rw [List.append_assoc] at hi
  obtain ⟨i, p, hsubmitted⟩ := stepN_submissions answers hseq (by simp [hpix, hlen]) hi
  rw [hlen] at hsubmitted
  have hgranted := stepN_succ_end hsubmitted ((step_cons rfl).trans (congrArg _ (grantStep_of_lockWait rfl)))
  have hended := stepN_succ_end hgranted ((step_cons rfl).trans (react_refresh_of_seq res rfl))
  refine ⟨_, hended, rfl, rfl, rfl, rfl, rfl, rfl, ?_⟩
  simp [refreshStep, tickOutputs, submissionOutputs, hpix, hlen]

end Sys2Proof.Machine
end

section
/-! Whether a step stops: only on a sink answer that nobody asked for (R192, log 4). -/

namespace Sys2Proof.Machine

variable {s : State} {e : Event}

theorem acceptWord_total (w : Word) (s : State) : ∃ t, acceptWord w s = .next t := by
  obtain ⟨-, hs⟩ | ⟨-, _, -, t, _, hs, -⟩ := acceptWord_answers w s
  · exact ⟨_, hs⟩
  · exact ⟨t, hs⟩

theorem react_cmd_total (w : Word) (s : State) : ∃ t, react (.cmd w) s = .next t := by
  cases hq : s.respQ with
  | nil => exact react_cmd_of_nil hq ▸ acceptWord_total w s
  | cons b q => exact ⟨_, react_cmd_of_cons hq⟩

/-- Every event that may come is answered in every state. -/
theorem react_total (h : eventAllowed e s) : ∃ t, react e s = .next t := by
  cases e with
  | rst straps => exact ⟨_, rfl⟩
  | cmd w => exact react_cmd_total w s
  | takeBeat => exact ⟨_, rfl⟩
  | ms => exact ⟨_, rfl⟩
  | submit res => exact ⟨_, react_submit_of_seq res h⟩
  | grant => exact ⟨_, rfl⟩
  | refresh res => exact ⟨_, react_refresh_of_seq res h⟩
  | grantWithMs g => exact ⟨_, rfl⟩

theorem react_fault (h : ¬ eventAllowed e s) : react e s = .fault .sinkAnswerUnasked := by
  cases e with
  | submit res => exact if_neg h
  | refresh res => exact if_neg h
  | _ => exact absurd trivial h

/-- An event that is no sink answer may come in every state. -/
theorem eventAllowed_of_ne (h : ∀ res, e ≠ .submit res ∧ e ≠ .refresh res) : eventAllowed e s := by
  cases e with
  | submit res => exact absurd rfl (h res).1
  | refresh res => exact absurd rfl (h res).2
  | _ => trivial

end Sys2Proof.Machine
end

section
/-! Every tick ends when the sink and the timebase keep their duty (R170), in any environment: from each stage of a tick
the run comes to a later stage or back to `Wait`. -/

namespace Sys2Proof.Machine

variable {choose : Nat → Event} {s u t : State} {k : Nat}

/-! ### Steps in any environment, stage by stage -/

theorem stepFrom_total (h : eventAllowed (eventFrom choose u) u) : ∃ t, stepFrom choose u = .next t := by
  obtain ⟨inputs, envIdx, -, hstep⟩ := stepFrom_eq_react choose u
  obtain ⟨t, ht⟩ := react_total (s := { u with inputs := inputs, envIdx := envIdx }) h
  exact ⟨t, hstep.trans ht⟩

/-- A step in `Submit`: back to `Wait`, one pixel on, or nothing for the sequencer. -/
theorem stepFrom_in_submit (hseq : u.seq = .submit) (h : stepFrom choose u = .next t) :
    (t.seq = .wait ∨ t.seq = .lockWait ∨ (t.seq = .submit ∧ t.pixIdx.toNat = u.pixIdx.toNat + 1)) ∨
    (notReset (eventFrom choose u) ∧ (∀ res, eventFrom choose u ≠ .submit res) ∧ t.seqRegs = u.seqRegs) := by
  obtain ⟨inputs, envIdx, -, hstep⟩ := stepFrom_eq_react choose u
  obtain ⟨straps, -, rfl⟩ | ⟨res, -, rfl⟩ | hsame :=
    react_in_submit (s := { u with inputs := inputs, envIdx := envIdx }) hseq (hstep.symm.trans h)
  · exact .inl (.inl rfl)
  · left
    right
    by_cases hlt : u.pixIdx.toNat < 63
    · rw [submitStep_of_lt (s := { u with inputs := inputs, envIdx := envIdx }) res hlt]
      exact .inr ⟨hseq, BitVec.toNat_add_of_lt (show u.pixIdx.toNat + 1 < 2 ^ 6 by omega)⟩
    · rw [submitStep_of_not_lt (s := { u with inputs := inputs, envIdx := envIdx }) res hlt]
      exact .inl rfl
  · exact .inr hsame

/-- A step in `LockWait`: out of it, one pulse on, or nothing for the sequencer. -/
theorem stepFrom_in_lockWait (hseq : u.seq = .lockWait) (h : stepFrom choose u = .next t) :
    (t.seq = .wait ∨ t.seq = .refresh ∨ (t.seq = .lockWait ∧ t.lockMs.toNat = u.lockMs.toNat + 1)) ∨
    (eventFrom choose u ≠ .ms ∧ (∀ g, eventFrom choose u ≠ .grantWithMs g) ∧ t.seqRegs = u.seqRegs) := by
  obtain ⟨inputs, envIdx, -, hstep⟩ := stepFrom_eq_react choose u
  obtain ⟨straps, -, rfl⟩ | ⟨-, hrefresh⟩ | ⟨-, rfl⟩ | ⟨-, hms, hpair, hsame⟩ :=
    react_in_lockWait (s := { u with inputs := inputs, envIdx := envIdx }) hseq (hstep.symm.trans h)
  · exact .inl (.inl rfl)
  · exact .inl (.inr (.inl hrefresh))
  · left
    by_cases hl : u.lockMs.toNat < 99
    · refine .inr (.inr ?_)
      rw [msInLockWait, if_pos hl]
      exact ⟨hseq, BitVec.toNat_add_of_lt (show u.lockMs.toNat + 1 < 2 ^ 7 by omega)⟩
    · rw [msInLockWait, if_neg hl]
      exact .inl rfl
  · exact .inr ⟨hms, hpair, hsame⟩

/-- A step in `Refresh`: back to `Wait`, or nothing for the sequencer. -/
theorem stepFrom_in_refresh (hseq : u.seq = .refresh) (h : stepFrom choose u = .next t) :
    t.seq = .wait ∨
    (notReset (eventFrom choose u) ∧ (∀ res, eventFrom choose u ≠ .refresh res) ∧ t.seqRegs = u.seqRegs) := by
  obtain ⟨inputs, envIdx, -, hstep⟩ := stepFrom_eq_react choose u
  obtain ⟨straps, -, rfl⟩ | ⟨res, -, rfl⟩ | hsame :=
    react_in_refresh (s := { u with inputs := inputs, envIdx := envIdx }) hseq (hstep.symm.trans h)
  · exact .inl rfl
  · exact .inl rfl
  · exact .inr hsame

/-! ### Runs -/

/-- At its `k`-th point or later the run from `s` meets `Q`. -/
def Reaches (choose : Nat → Event) (s : State) (k : Nat) (Q : State → Prop) : Prop :=
  ∃ j t, k ≤ j ∧ runFrom choose j s = some t ∧ Q t

/-- The last step of a run. -/
theorem runFrom_succ_eq_some (h : runFrom choose (k + 1) s = some t) :
    ∃ u, runFrom choose k s = some u ∧ stepFrom choose u = .next t := by
  induction k generalizing s with
  | zero =>
    cases hs : stepFrom choose s with
    | next u =>
      rw [runFrom_succ_of_step hs] at h
      exact ⟨s, rfl, hs.trans (congrArg _ (Option.some.inj h))⟩
    | fault f => simp [runFrom, hs] at h
    | refused r => simp [runFrom, hs] at h
  | succ k ih =>
    cases hs : stepFrom choose s with
    | next u =>
      rw [runFrom_succ_of_step hs] at h
      obtain ⟨v, hv, hstep⟩ := ih h
      exact ⟨v, (runFrom_succ_of_step hs).trans hv, hstep⟩
    | fault f => simp [runFrom, hs] at h
    | refused r => simp [runFrom, hs] at h

/-- A point that a run reaches has all points before it. -/
theorem runFrom_before (d : Nat) (h : runFrom choose (k + d) s = some t) : ∃ u, runFrom choose k s = some u := by
  induction d generalizing t with
  | zero => exact ⟨t, h⟩
  | succ d ih =>
    obtain ⟨u, hu, -⟩ := runFrom_succ_eq_some h
    exact ih hu

theorem runFrom_succ_next (hu : runFrom choose k s = some u) (hstep : stepFrom choose u = .next t) :
    runFrom choose (k + 1) s = some t :=
  (runFrom_succ_end hu).trans (runFrom_succ_of_step hstep)

/-- A stage of a run is left: if in stage `P` every step reaches `Q` or stays in `P` without the event `trig`, and that
event may always come there, then a run in `P` that takes `trig` at some later point meets `Q`. -/
theorem reaches_of_trigger {P Q : State → Prop} {trig : Event → Prop}
    (hstep : ∀ u t, P u → stepFrom choose u = .next t → Q t ∨ (¬ trig (eventFrom choose u) ∧ P t))
    (hallowed : ∀ u, P u → trig (eventFrom choose u) → eventAllowed (eventFrom choose u) u)
    (hu : runFrom choose k s = some u) (hP : P u) {j : Nat} {v : State} (hkj : k ≤ j)
    (hv : runFrom choose j s = some v) (htrig : trig (eventFrom choose v)) : Reaches choose s k Q := by
  obtain ⟨d, rfl⟩ := Nat.exists_eq_add_of_le hkj
  induction d generalizing k u with
  | zero =>
    obtain rfl : u = v := Option.some.inj (hu.symm.trans hv)
    obtain ⟨t, ht⟩ := stepFrom_total (hallowed u hP htrig)
    obtain hQ | ⟨hno, -⟩ := hstep u t hP ht
    · exact ⟨k + 1, t, k.le_succ, runFrom_succ_next hu ht, hQ⟩
    · exact absurd htrig hno
  | succ d ih =>
    rw [show k + (d + 1) = k + 1 + d by omega] at hv
    obtain ⟨t, ht⟩ := runFrom_before d hv
    obtain ⟨u', hu', hnext⟩ := runFrom_succ_eq_some ht
    obtain rfl : u = u' := Option.some.inj (hu.symm.trans hu')
    obtain hQ | ⟨-, hP'⟩ := hstep u t hP hnext
    · exact ⟨k + 1, t, k.le_succ, ht, hQ⟩
    · obtain ⟨j, t, hj, hrun⟩ := ih ht hP' (Nat.le_add_right _ _) hv
      exact ⟨j, t, by omega, hrun⟩

/-- What every later point that meets `Q` leads to is met. -/
theorem Reaches.trans {Q R : State → Prop} (h : Reaches choose s k Q)
    (hnext : ∀ j t, runFrom choose j s = some t → Q t → Reaches choose s j R) : Reaches choose s k R := by
  obtain ⟨j, t, hkj, hrun, hQ⟩ := h
  obtain ⟨j', t', hjj', hrun', hR⟩ := hnext j t hrun hQ
  exact ⟨j', t', hkj.trans hjj', hrun', hR⟩

/-! ### The stages of a tick -/

/-- The events that the sink's duty promises a pixel request (R211). -/
def EndsSubmission (e : Event) : Prop := (∃ res, e = .submit res) ∨ ¬ notReset e

/-- The events that the sink's duty promises a refresh request (R211). -/
def EndsRefresh (e : Event) : Prop := (∃ res, e = .refresh res) ∨ ¬ notReset e

/-- The events that the timebase's duty promises. -/
def IsPulse (e : Event) : Prop := e = .ms ∨ ∃ g, e = .grantWithMs g

theorem eventAllowed_of_reset {e : Event} (h : ¬ notReset e) : eventAllowed e u := by
  refine eventAllowed_of_ne fun res => ⟨?_, ?_⟩
  · rintro rfl
    exact h nofun
  · rintro rfl
    exact h nofun

theorem reaches_wait_of_refresh (hsink : sinkIsFair choose s) (hu : runFrom choose k s = some u)
    (hseq : u.seq = .refresh) : Reaches choose s k (·.seq = .wait) := by
  obtain ⟨-, hfair⟩ := hsink k u hu
  obtain ⟨j, v, hkj, hv, htrig⟩ := hfair hseq
  refine reaches_of_trigger (P := (·.seq = .refresh)) (trig := EndsRefresh) (fun u t hu ht => ?_) (fun u hu => ?_)
    hu hseq hkj hv (htrig.imp_left And.right)
  · obtain hwait | ⟨hreset, hno, hsame⟩ := stepFrom_in_refresh hu ht
    · exact .inl hwait
    · exact .inr ⟨by simp [EndsRefresh, hreset, hno], (congrArg Prod.fst hsame).trans hu⟩
  · rintro (⟨res, he⟩ | he)
    · rw [he]
      exact hu
    · exact eventAllowed_of_reset he

/-- The lock wait ends: each pulse brings its bound nearer. -/
theorem reaches_wait_of_lockWait (hsink : sinkIsFair choose s) (htime : timebaseIsFair choose s) (n : Nat)
    (hu : runFrom choose k s = some u) (hseq : u.seq = .lockWait) (hn : u.lockMs.toNat + n = 128) :
    Reaches choose s k (·.seq = .wait) := by
  induction n generalizing k u with
  | zero => exact absurd u.lockMs.isLt (by omega)
  | succ n ih =>
    obtain ⟨j, v, hkj, hv, htrig⟩ := htime k u hu
    have hleft : Reaches choose s k fun t =>
        t.seq = .wait ∨ t.seq = .refresh ∨ (t.seq = .lockWait ∧ t.lockMs.toNat = u.lockMs.toNat + 1) := by
      refine reaches_of_trigger (P := fun t => t.seq = .lockWait ∧ t.lockMs = u.lockMs) (trig := IsPulse)
        (fun w t hw ht => ?_) (fun w _ => ?_) hu ⟨hseq, rfl⟩ hkj hv htrig
      · obtain ⟨hw, hlock⟩ := hw
        rw [← hlock]
        obtain hout | ⟨hms, hpair, hsame⟩ := stepFrom_in_lockWait hw ht
        · exact .inl hout
        · simp only [State.seqRegs, Prod.mk.injEq] at hsame
          exact .inr ⟨by simp [IsPulse, hms, hpair], by simp_all⟩
      · rintro (he | ⟨g, he⟩) <;> (rw [he]; trivial)
    refine hleft.trans fun j t ht hstage => ?_
    obtain hwait | hrefresh | ⟨hlock, hcount⟩ := hstage
    · exact ⟨j, t, le_rfl, ht, hwait⟩
    · exact reaches_wait_of_refresh hsink ht hrefresh
    · exact ih ht hlock (by omega)

/-- The submissions end: each answer brings the last pixel nearer. -/
theorem reaches_wait_of_submit (hsink : sinkIsFair choose s) (htime : timebaseIsFair choose s) (n : Nat)
    (hu : runFrom choose k s = some u) (hseq : u.seq = .submit) (hn : u.pixIdx.toNat + n = 64) :
    Reaches choose s k (·.seq = .wait) := by
  induction n generalizing k u with
  | zero => exact absurd u.pixIdx.isLt (by omega)
  | succ n ih =>
    obtain ⟨hfair, -⟩ := hsink k u hu
    obtain ⟨j, v, hkj, hv, htrig⟩ := hfair hseq
    have hleft : Reaches choose s k fun t =>
        t.seq = .wait ∨ t.seq = .lockWait ∨ (t.seq = .submit ∧ t.pixIdx.toNat = u.pixIdx.toNat + 1) := by
      refine reaches_of_trigger (P := fun t => t.seq = .submit ∧ t.pixIdx = u.pixIdx) (trig := EndsSubmission)
        (fun w t hw ht => ?_) (fun w ⟨hw, _⟩ => ?_) hu ⟨hseq, rfl⟩ hkj hv (htrig.imp_left And.right)
      · obtain ⟨hw, hpix⟩ := hw
        rw [← hpix]
        obtain hout | ⟨hreset, hno, hsame⟩ := stepFrom_in_submit hw ht
        · exact .inl hout
        · simp only [State.seqRegs, Prod.mk.injEq] at hsame
          exact .inr ⟨by simp [EndsSubmission, hreset, hno], by simp_all⟩
      · rintro (⟨res, he⟩ | he)
        · rw [he]
          exact hw
        · exact eventAllowed_of_reset he
    refine hleft.trans fun j t ht hstage => ?_
    obtain hwait | hlock | ⟨hsubmit, hcount⟩ := hstage
    · exact ⟨j, t, le_rfl, ht, hwait⟩
    · exact reaches_wait_of_lockWait hsink htime (128 - t.lockMs.toNat) ht hlock
        (Nat.add_sub_cancel' t.lockMs.isLt.le)
    · exact ih ht hsubmit (by omega)

/-- From every point of a fair run the sequencer comes back to `Wait`. -/
theorem reaches_wait (hsink : sinkIsFair choose s) (htime : timebaseIsFair choose s)
    (hu : runFrom choose k s = some u) : Reaches choose s k (·.seq = .wait) := by
  cases hseq : u.seq with
  | wait => exact ⟨k, u, le_rfl, hu, hseq⟩
  | submit =>
    exact reaches_wait_of_submit hsink htime (64 - u.pixIdx.toNat) hu hseq (Nat.add_sub_cancel' u.pixIdx.isLt.le)
  | lockWait =>
    exact reaches_wait_of_lockWait hsink htime (128 - u.lockMs.toNat) hu hseq
      (Nat.add_sub_cancel' u.lockMs.isLt.le)
  | refresh => exact reaches_wait_of_refresh hsink hu hseq

/-! ### A silent sink -/

/-- Without an answer and without a `RESET` the sequencer stays in `Submit` or `Refresh`. -/
theorem stepFrom_silent (hseq : u.seq = .submit ∨ u.seq = .refresh) (hreset : notReset (eventFrom choose u))
    (hno : ∀ res, eventFrom choose u ≠ .submit res ∧ eventFrom choose u ≠ .refresh res) :
    ∃ t, stepFrom choose u = .next t ∧ t.seqRegs = u.seqRegs := by
  obtain ⟨t, ht⟩ := stepFrom_total (eventAllowed_of_ne hno)
  obtain ⟨inputs, envIdx, -, hstep⟩ := stepFrom_eq_react choose u
  obtain h | h := hseq
  · obtain ⟨straps, he, -⟩ | ⟨res, he, -⟩ | ⟨-, -, hsame⟩ :=
      react_in_submit (s := { u with inputs := inputs, envIdx := envIdx }) h (hstep.symm.trans ht)
    · exact absurd he (hreset straps)
    · exact absurd he (hno res).1
    · exact ⟨t, ht, hsame⟩
  · obtain ⟨straps, he, -⟩ | ⟨res, he, -⟩ | ⟨-, -, hsame⟩ :=
      react_in_refresh (s := { u with inputs := inputs, envIdx := envIdx }) h (hstep.symm.trans ht)
    · exact absurd he (hreset straps)
    · exact absurd he (hno res).2
    · exact ⟨t, ht, hsame⟩

theorem runFrom_silent (k : Nat) (hseq : s.seq = .submit ∨ s.seq = .refresh) (hsilent : sinkIsSilent choose k s) :
    ∃ t, runFrom choose k s = some t ∧ t.seqRegs = s.seqRegs := by
  induction k with
  | zero => exact ⟨s, rfl, rfl⟩
  | succ k ih =>
    obtain ⟨u, hu, hsame⟩ := ih fun j hj => hsilent j (hj.trans k.lt_succ_self)
    obtain ⟨hreset, hno⟩ := hsilent k k.lt_succ_self u hu
    have huseq : u.seq = s.seq := congrArg Prod.fst hsame
    obtain ⟨t, ht, hsame'⟩ := stepFrom_silent (huseq ▸ hseq) hreset hno
    exact ⟨t, runFrom_succ_next hu ht, hsame'.trans hsame⟩

/-- Settles O60: the four clauses are `react_total` with `react_fault`, `reaches_wait`, `runFrom_silent` and
`react_cmd_total`. -/
theorem theBlockNeverHalts : Obligations.TheBlockNeverHalts := by
  refine ⟨fun s => ⟨react_total, react_fault⟩, fun choose s hsink htime k u => reaches_wait hsink htime,
    fun choose k s hseq hsilent => ?_, fun w s _ => react_cmd_total w s⟩
  obtain ⟨t, ht, hsame⟩ := runFrom_silent k hseq hsilent
  have htseq : t.seq = s.seq := congrArg Prod.fst hsame
  refine ⟨t, ht, hsame, exec_render_of_ne ?_⟩
  obtain h | h := hseq <;> simp [htseq, h]

end Sys2Proof.Machine
end
